-- ==== Sys2Proof/Word.lean ====
section
/-! DEFINITION. The word types of the GX9 (R5: little-endian values, bit 0 least significant). -/

namespace Sys2Proof

/-- A byte of memory, of a register field or of a record. -/
abbrev Byte := BitVec 8
/-- A 16-bit field. -/
abbrev Half := BitVec 16
/-- A 32-bit register or field; an FP32 value is its bit pattern. -/
abbrev Word := BitVec 32
/-- A 64-bit field, such as a beat count. -/
abbrev DWord := BitVec 64

end Sys2Proof
end

