-- ==== Sys2Proof/Syntax.lean ====
section
/-! DEFINITION. The commands of the GX9: one constructor of `Instr` for each row of spec/opcode_table.json, with the operands
that reach the block with it. Physical happenings that the spec says are detected at a step (R331) are operands of it. -/

namespace Sys2Proof

/-- Names a command of the running job: its plan index, and for a command of a roster body (R298) its index in the body. -/
structure CmdRef where
  plan : Nat
  body : Option Nat
deriving DecidableEq, Repr

/-- The operand of a command whose tiles a fetch brings in (R249, R283, R145). -/
inductive OperandRole
  | streamed
  | stationary
  | index          -- index plane of a sparse stationary operand
  | prologue       -- derivative plane of the prologue
  | side (n : Nat) -- side operand n of the drain chain
deriving DecidableEq, Repr

/-- A physical fault that a code of Table 14-1 detects at a step. -/
inductive Detection
  | suppressed (facet : Fin 4) (tokens : List Nat)   -- check column, tag, valid or converter mismatch (R97)
  | dual (facet : Fin 4) (tokens : List Nat)         -- dual-pass copies disagree (R99)
  | feeder (element : Nat)                           -- feeder or load-path copies disagree (0x0303)
  | accStage (facet : Fin 4) (word : Nat)            -- accumulate-stage copies disagree at a word of the facet's memory, 64 a tile row (0x0314)
  | residue (facet : Fin 4) (row : Nat)              -- accumulator residue mismatch (R135)
  | drainLane (row lane : Nat)                       -- drain lane residue or rounding mismatch at a row of the item (R333)
  | control                                          -- parity error in control state (R334)
  | tagParity (slot : Fin 64)                        -- parity error in a residency tag (R334)
  | slotParity (slot : Fin 64) (word : Nat)          -- stage-buffer parity error (R257)
deriving DecidableEq, Repr

/-- The range of a participant of a split unit as it reaches its receiver: the participant, and what is detected as it reads the range out and as its
receiver combines it (R135, R331). -/
structure SplitRange where
  participant : Nat
  sent : List Detection
  det : List Detection
deriving DecidableEq, Repr

/-- What parity finds as a handle arrives: an error of its queue entry (R334), and words of its slot where a mover that takes the handle from the queue reads
the slot to write it out (R257). -/
structure HandleParity where
  entry : Bool
  words : List Nat
deriving DecidableEq, Repr

/-- A flit as a port receives it: the sixteen words of each of its two FCLK, lane by lane once the lanes are aligned (R368), or the 128 bytes of pl_data as
words (R369); and whether 1,024 FCLK have passed since the port's last NAK (R371). -/
structure RxFlit where
  words : List (List (BitVec 64))
  late : Bool
deriving DecidableEq, Repr

/-- What a port sees as its physical layer comes up (R369, R373): in lane mode the words of each lane in which the alignment word stands, one for an FCLK; in
UCIe mode the trained rate, pl_inband_pres, and whether pl_protocol and pl_protocol_flitfmt are valid and name the Streaming protocol and the Raw
Format. -/
structure PhyUp where
  rate : BitVec 8
  lanes : List (List (BitVec 64))
  inband : Bool
  valid : Bool
  streaming : Bool
  raw : Bool
deriving DecidableEq, Repr

/-- The SRAMs that have a memory BIST controller (R382). -/
inductive Sram
  | stageBuffer | accumulator | sequencer | management | hamperQueue
deriving DecidableEq, Repr

/-- What the IEEE 1687 network reaches (R382): the memory BIST of an SRAM, and the debug instruments of the polish engine. -/
inductive IjtagAccess
  | bist (sram : Sram)
  | readSignature (facet : Fin 128)
  | singleStep (facet : Fin 128)
  | forceStep (facet : Fin 128) (step : BitVec 6)
deriving DecidableEq, Repr

/-- The IEEE 1500 wrapper instructions of R381, with what passes through the wrapper's ports while each is loaded: the values of the boundary cells; the
parallel port's WPI and WPC; the accesses to the network between WSI and WSO. -/
inductive WrapperInst
  | bypass
  | extest (cells : List Bool)
  | intestScan (wpi : BitVec 256) (wpc : BitVec 4)
  | ijtag (accesses : List IjtagAccess)
deriving DecidableEq, Repr

/-- One command of the GX9: a row of the table of operations and events. -/
inductive Instr
  -- resets and boot
  | powerOnReset
  | coldResetAssert
  | coldResetRelease (rpMode : BitVec 4) (arrayNominal : BitVec 5) (selfCheck : Bool)
  | blockResetCold (selfCheck : Bool)
  | blockResetWarm
  | blockResetJob
  | quiesceComplete (selfCheck : Bool)
  | quiesceTimeout
  | keyHashReadDone (hash : List Byte) (clean : Bool)
  | cutImageReadDone (image : List Byte) (clean : Bool)
  | bootReadTimeout
  | cutHashDone
  | cutSignatureDone
  | seqSelfCheckDone (failed : BitVec 8)
  | bootBeatTimeout
  | bootPolishDone (failing : List (Fin 128 × BitVec 6))
  -- register accesses
  | cutSeal
  | rwlNarrowWrite (addr : BitVec 24) (value : Word)
  | polishDisable (disable : Bool) (steal : Bool)
  | polishNow (disable : Bool) (steal : Bool)
  | adaptBoundsWrite (value : Word)
  | irqStatusClear (value : Word)
  | jobAbort (value : Word)
  | inclSelWrite (value : Word)
  | pairLoRead (addr : BitVec 24)
  | registerWrite (addr : BitVec 24) (value : Word)
  -- beats
  | beatStrobe (count : DWord) (interval : Nat)
  | beatStall
  -- jobs
  | jobAdmission (client : Fin 256) (parityError : Bool) (overrun : Nat)
  | ringWaitExpiry (client : Fin 256)
  | sliceEnd (overrun : Nat)
  | preemptQuiesced
  | cheapPointReached
  | cheapWaitExpiry
  | nopreOverrun
  | saveComplete (writeError : Bool)
  | clearComplete
  | restoreHeaderRead (clean : Bool)
  | restoreComplete (clean : Bool)
  | teardownBucketsDone
  -- plans
  | planReadDone (clean : Bool)
  | unknownOpcode
  | endPlan
  | waitBeat
  | waitBeatTarget (cmd : CmdRef)
  | mark
  | product
  | move
  | gather
  | scatterAdd
  | settle
  | reduce
  | apply (det : List Detection)
  | lazy (det : List Detection)
  | normsq
  | score
  | prune
  | regrow
  | commit
  | rosterStep
  | fillWaitExpiry
  | rosterRetire
  -- product walk and memory
  | itemTake (core : Fin 32) (cmd : CmdRef)
  | prefetchIssue (cmd : CmdRef) (operand : OperandRole) (tiles : List Nat) (cores : BitVec 32)
  | hamperHandleArrive (core : Fin 32) (queue : Fin 16) (parity : HandleParity)
  | passIssue (core : Fin 32) (det : List Detection)
  | passVerdict (core : Fin 32) (cmd : CmdRef) (item : Nat) (det : List Detection)
  | splitPartialArrive (cmd : CmdRef) (unit : Nat) (range : SplitRange)
  | rtDeadlineMiss (core : Fin 32) (cmd : CmdRef)
  | tpReadData (port : Fin 32) (tag : Byte) (data : List Byte) (parity : DWord) (poison : Bool) (last : Bool)
  | tpWriteResponse (port : Fin 32) (tag : Byte) (err : Bool) (beatsAccepted : Bool)
  | tpReadWithdraw (port : Fin 32) (tag : Byte)
  | tpRequestTimeout (port : Fin 32) (tag : Byte)
  -- rings
  | ringDataFlit (port : Fin 4) (flit : RxFlit) (adderFaults : Nat)
  | ringNak (port : Fin 4) (flit : RxFlit)
  | ringIdle (port : Fin 4) (flit : RxFlit)
  | ringTrain (port : Fin 4) (flit : RxFlit) (peerPassed : Bool)
  | ringReplayTimeout (port : Fin 4)
  | ringPortDown (port : Fin 4)
  | ringPhyUp (port : Fin 4) (phy : PhyUp)
  | ringTrainRetry (port : Fin 4)
  | downMaskExpiry (port : Fin 4)
  | idleInsert (port : Fin 4)
  | bucketStart (chan : Fin 4)
  | contributionDecision (chan : Fin 4)
  | reduceDeadline (chan : Fin 4)
  | unissuedBucketDeadline (chan : Fin 4)
  | bucketLimit (chan : Fin 4)
  | bucketPassed (chan : Fin 4)
  -- health
  | polishStealStep (facet : Fin 128)
  | polishStepEnd (facet : Fin 128) (signatureOk : Bool)
  | polishForcedSlot (core : Fin 32)
  | seqLockstepMismatch (pair : Fin 8) (cleanA : Bool) (cleanB : Bool) (recent : Bool) (executing : Option CmdRef)
  | mcLockstepMismatch (recent : Bool)
  | mcRestartDone
  | thermalSensorUpdate (readings : List (BitVec 10))
  | droopDetect (quadrants : BitVec 4) (pin : Bool) (needed : Nat)
  | droopRecoveryStep
  | throttleInput (n : BitVec 3)
  | prefetchLoop (starved : BitVec 32) (twoFree : BitVec 32) (waited : BitVec 32)
  | inclusionRecordWrite
  | wrapperInstruction (inst : WrapperInst)
  | supplyRecovers
deriving DecidableEq, Repr

end Sys2Proof
end

