-- ==== Sys2Proof/Config.lean ====
section
/-! DEFINITION. What the spec fixes once for block version 1.2, and the free values: constants without a body, so that
nothing can be proved of the value they give. -/

namespace Sys2Proof

/-- R2: what VERSION reads on every block of version 1.2. -/
abbrev Config.version : Word := 0x00090102

/-- What a byte of external memory that nothing has written reads as. DESIGN CHOICE (log 1): the spec gives none. -/
abbrev Config.emptyByte : Byte := 0x00

/-- Free value (R363): whether word number `n` of a failed write kept its old value. Log 2. -/
opaque Config.keptOld : Nat → Nat → Bool

/-- Free value (R321): byte `n` of the control region or of a job partition of save number `k`, whose encoding belongs to
the firmware release. Log 2. -/
opaque Config.saveByte : Nat → Nat → Byte

/-- Free value (R229): the elements field of a header that a relaying member forms for its own segment of a short lap, whose
length it cannot know before its REDUCE arrives. Log 2. -/
opaque Config.relayElements : Nat → Word

/-- Free value (log 2): a word that the spec leaves open, as the fault fields of a completion record that no command of the plan caused
(R264), the token where no candidate is left (R303), or the cause of a fence by retired slots (Table 14-3). -/
opaque Config.freeWord : Nat → Word

/-- Free value (Table 06-7, log 45): max(z, 0) for a NaN and for −0. -/
opaque Config.reluEdge : Word → Word

/-- Free value (R193, log 52): where the touched bitmap of a gradient table lies, in pages of 4 KiB, from the address of its
descriptor. -/
opaque Config.touchedBase : Nat → Nat

/-- Free value (R141, R58, log 121): whether the column sum of an integer pair that is no integer in units of 1 becomes the integer above it. -/
opaque Config.roundsUp : BitVec 80 → Nat → Bool

/-- Free value (R159, log 55): where a block score that is a NaN stands in a ranking. -/
opaque Config.nanRank : Word → Int

end Sys2Proof
end

