-- ==== Sys2Proof/Machine/State.lean ====
section
/-! DEFINITION. The state of the GX9 as plain data, its reset value, and the reasons a step can stop. INVENTORY.md lists every
piece with the rule that names it. -/

namespace Sys2Proof.Machine

/-- Byte-addressed memory in canonical form: addresses strictly rising, no entry equal to `Config.emptyByte`. Tier-0 memories
use the same form; a byte not listed is zero there because a reset zeroes them (Table 02-7). -/
abbrev Mem := List Host.Cell

/-- External memory (R233, R365): contents and poison of tier 1 (near) and tier 2 (far). Poison lists hold beat numbers
(address / 512), rising. -/
structure ExtMem where
  near : Mem
  far : Mem
  nearPoison : List Nat
  farPoison : List Nat
deriving DecidableEq, Repr

/-! ### Reports and records (chapter 17) -/

/-- Table 17-1 in the order of the scope field of R403. -/
inductive Scope
  | none | issue | cmd | step | ring | seq | entry | job | block
deriving DecidableEq, Repr

/-- The unit kinds of R403. -/
inductive UnitKind
  | block | core | facet | ringPort | tilePort | seqPair | mgmt | channel | client
deriving DecidableEq, Repr

/-- A report on its way to the inclusion log (R404): the record of Table 17-3 without its sequence number. `service` sets
IRQ_STATUS.service with the record (R393). -/
structure Report where
  code : Half
  fault : Bool
  scope : Scope
  svc : Bool
  service : Bool
  beat : DWord
  planIndex : Word
  label : Word
  unitKind : UnitKind
  unitIndex : Nat
  job : Option Nat
  client : Byte
  detail : Word
deriving DecidableEq, Repr

/-- A record of the inclusion log (Table 17-3). -/
structure LogRecord where
  seq : Word
  report : Report
deriving DecidableEq, Repr

/-- The inclusion log and the report queue (R397, R398, R404, Table 16-24). -/
structure Log where
  records : List LogRecord
  count : Word
  queue : List Report
  held : List Report
  dropped : Nat
  sel : Word
  selHeld : Bool
  data : List Word
  mcRestarts : Word
deriving DecidableEq, Repr

/-! ### Pins, boot, cut and resets -/

/-- `wrapper` is the instruction that the test wrapper holds, `wso` what accesses to its network have shifted out on WSO; `scanned`: the functional clocks
have shifted in WS_INTEST_SCAN since the last cold reset (R381, R382; log 111). -/
structure Pins where
  coldN : Bool
  rpMode : BitVec 4
  arrayNominal : BitVec 5
  throttle : BitVec 3
  droopIn : Bool
  droopDet : BitVec 4
  svcDegraded : Bool
  svcReplace : Bool
  swState : BitVec 32
  temps : Vector (BitVec 10) 32
  trip : Bool
  wrapper : WrapperInst
  wso : List DWord
  scanned : Bool
deriving DecidableEq, Repr

/-- Table 02-9. -/
inductive CutState
  | booting | applied | ready | failed
deriving DecidableEq, Repr

/-- The boot sequence (R42, R43, R44) and the bytes it carries from step to step. `unread` counts the bytes of the image whose
request has not gone out (step 4). `held` is a boot that waits, with the outcome of its self-check, until the wrapper is in functional mode (R383). -/
structure Boot where
  cutState : CutState
  step : BitVec 4
  fault : Half
  warm : Bool
  dead : Bool
  keyHash : List Byte
  image : List Byte
  digest : List Byte
  unread : Nat
  beats : Nat
  beatBad : Bool
  stopped : Bool
  restarting : Bool
  held : Option Bool
deriving DecidableEq, Repr

/-- RESET_CAUSE (Table 16-5). -/
structure Cause where
  kind : BitVec 2
  coldByRegister : Bool
  jobByFault : Bool
  count : Half
deriving DecidableEq, Repr

/-- Why the block is quiescing (R41, R327, R344). -/
inductive QuiesceKind
  | warm | job | jobFault | abort | mcStop
deriving DecidableEq, Repr

structure Quiesce where
  kind : QuiesceKind
  since : DWord
  reported : Bool
deriving DecidableEq, Repr

/-- The applied cut: its sections as authenticated (R46, R390), read by offset (Tables 02-3 to 02-5). -/
structure Cut where
  isApplied : Bool
  structureBytes : List Byte
  jobDefaults : List Byte
  operating : List Byte
  mcFirmware : List Byte
  seqFirmware : List Byte
  serial : DWord
  sealOnBoot : Bool
deriving DecidableEq, Repr

/-- The RWL registers and the seal (R37, R38). -/
structure Rwl where
  facetDisable : BitVec 128
  shapeMenu : BitVec 7
  polishPeriod : BitVec 13
  isSealed : Bool
  structDigest : List Byte
deriving DecidableEq, Repr

/-- Register access port state (R378, R385): the last access's outcome, and the latched and staged _HI words by address. -/
structure RegPort where
  rdata : Word
  error : Bool
  latched : List (Nat × Word)
  staged : List (Nat × Word)
deriving DecidableEq, Repr

/-! ### Reliability, loops and beats (chapters 14 and 15) -/

structure Polish where
  disable : Bool
  steal : Bool
  owed : BitVec 128
  tripSeen : Bool
  droopExceeded : Bool
deriving DecidableEq, Repr

/-- ADAPT_BOUNDS (Table 14-4). -/
structure Bounds where
  prefetchMin : BitVec 5
  dutyFloor : BitVec 4
  stretchMax : BitVec 4
  thermalTarget : BitVec 8
deriving DecidableEq, Repr

/-- The thermal and the droop loop (R346, R347); `narrowed` holds from a write that narrows stretch_max to the droop loop's next decision (R345). -/
structure Loops where
  duty : BitVec 4
  tripped : Bool
  stretch : Nat
  excursion : Bool
  narrowed : Bool
deriving DecidableEq, Repr

structure Beat where
  observed : DWord
  running : Bool
  stalled : Bool
  jumped : Bool
  ignored : Bool
  offPeriod : Bool
  measured : Word
  lastOff : Option DWord
  readyBeat : DWord
deriving DecidableEq, Repr

/-! ### Descriptors and decoded commands (chapters 06 and 11) -/

/-- Table 11-7 form. -/
inductive Form
  | e4m3 | e5m2 | e2m1 | int8 | int4 | fp32 | int32 | wide | plane
deriving DecidableEq, Repr

inductive Layout
  | tiles | rows | sparse48 | sparse28
deriving DecidableEq, Repr

inductive Fallback
  | none | alt | skip
deriving DecidableEq, Repr

/-- Extension descriptor (Table 11-8). -/
structure ExtDesc where
  alpha8 : Nat
  reqSh : Nat
  reqM : Nat
  rowsumBase : Nat
  smoothBase : Nat
  masterBase : Nat
  stateBase : Nat
  chanstatBase : Nat
deriving DecidableEq, Repr

/-- Tensor descriptor (Table 11-7), with its extension, and with the plane bases that a mask record's live set gives put in
place (R154). `version` is the mask version of the copy (R166). -/
structure Desc where
  index : Nat
  form : Form
  layout : Layout
  fallback : Fallback
  chanStats : Bool
  far : Bool
  auxFar : Bool
  zpMode : Nat
  rotate : Bool
  smooth : Bool
  isLazy : Bool
  rows : Nat
  cols : Nat
  itemStride : Nat
  base : Nat
  auxBase : Nat
  scaleRec : Nat
  maskRec : Nat
  scale : Word
  zeroPoint : Word
  rtDeadline : Nat
  altIndex : Nat
  ext : Option ExtDesc
  master : Nat
  state : Nat
  version : Option Word
deriving DecidableEq, Repr

inductive ProductKind
  | forward | inputGrad | weightGrad
deriving DecidableEq, Repr

/-- Table 04-1. -/
inductive Mode
  | mac | sqdist | l1dist | maxplus | minplus
deriving DecidableEq, Repr

/-- Table 04-7, in shape_menu bit order. -/
inductive Shape
  | solo | broadcast | deep | wide | square | split2 | split4
deriving DecidableEq, Repr

/-- Table 06-4. -/
inductive SettleForm
  | fp32 | wide | addWide | int32
deriving DecidableEq, Repr

/-- Table 06-5. -/
inductive Prologue
  | none | zp | plane | shift | leaky
deriving DecidableEq, Repr

inductive PlaneKind
  | pos | neg | nonzero
deriving DecidableEq, Repr

/-- Table 06-7. -/
inductive Func
  | relu | leaky (k : Nat) | sigmoid | tanh | silu | gelu | exp | recip | rsqrt
deriving DecidableEq, Repr

/-- Table 06-6. -/
inductive Stage
  | bias | add | mul | func (f : Func) | deriv (f : Func) | rowdot | softmaxBwd | normBwd
  | rotate | narrow | requant | plane (k : PlaneKind)
deriving DecidableEq, Repr

/-- Run-time bounds of an item (R275). -/
structure RtBounds where
  p : Nat
  k : Nat
  n : Nat
deriving DecidableEq, Repr

/-- Partial statistics of a producing command (R70). -/
structure Stats where
  amax : Word
  elements : Nat
  flushed : Nat
  saturated : Nat
  nonfinite : Nat
  below : Nat
deriving DecidableEq, Repr

/-- The scale and format with which a narrow tensor is read or written by a command (R60, R69, R72). -/
structure Scale where
  form : Form
  scale : Word
  rscale : Word
  record : Nat
deriving DecidableEq, Repr

/-- A roster slot binding (R298). -/
structure Binding where
  desc : Nat
  mode : Nat
  heads : Nat
deriving DecidableEq, Repr

/-- What a facet compares for a result row (R96): the sum of its aligned data columns and what its check column gives, both in 86 bits
(R55). -/
structure RowCheck where
  facet : Fin 4
  data : BitVec 86
  check : BitVec 86
deriving DecidableEq, Repr

/-- A result row at the bottom edge: its token, its first column within the item, the exact 80-bit column sums, their tags (Table 04-3 codes),
whether a poisoned row was met (R258), and the comparisons of the facets that it passed. -/
structure ResultRow where
  token : Nat
  col : Nat
  sums : List (BitVec 80)
  tags : List (BitVec 2)
  poisoned : Bool
  checks : List RowCheck
deriving DecidableEq, Repr

/-- One tile held in a stage-buffer slot, with its residency tag (R236) and its poison mask (R257). `valid` is the residency
tag's validity; `missing` lists the 512-byte beats of the source that have not arrived; `tokenTile` is the row and column of the
tile among the tiles of its source, or of the transposed tensor that a transposing MOVE makes of it (R244), for a slot that a queue hands on (R284).
`built` marks a tile that a GATHER put together from rows. -/
structure TileCopy where
  far : Bool
  addr : Nat
  size : Nat
  form : Form
  transposed : Bool
  version : Option Word
  offset : Nat
  valid : Bool
  missing : List Nat
  poison : DWord
  read : Bool
  tokenTile : Option (Nat × Nat)
  built : Bool
deriving DecidableEq, Repr

/-- What a PRODUCT fixes at issue (R280 to R283), and its hand-out and settle state (R285, R286). `below` is the reciprocal scale of the history at
issue (R71); `handles` holds the handles of items of a QUEUE that went back to the return list (R284, R285), `brought` the copies of external data that
handles have brought to each item, from whose sources a restart reads again (R135). -/
structure Product where
  kind : ProductKind
  mode : Mode
  dual : Bool
  shape : Shape
  depth : Nat
  splitK : Nat
  repro : Bool
  compact : Bool
  comp : Bool
  cand : Bool
  candStride : Nat
  settleForm : SettleForm
  prologue : Prologue
  proK : Int
  pin : Nat
  aSrc : Nat
  aQueue : Nat
  nOuter : Bool
  walk : Nat
  l2Log : Nat
  batch : Nat
  chain : List Stage
  descA : Desc
  descW : Desc
  descY : Desc
  descPro : Option Desc
  descSat : Option Desc
  sides : List Desc
  bounds : List RtBounds
  scaleA : Scale
  scaleW : Scale
  scaleY : Scale
  sideScales : List Scale
  sAB : Word
  tokenBlock : Nat
  bindings : List Binding
  items : Nat
  counter : Nat
  returned : List Nat
  settled : List Nat
  groupCores : List (Nat × Fin 32)
  stats : Stats
  chanMax : List Word
  deadline : List (OperandRole × DWord)
  zeroed : List OperandRole
  alts : List (OperandRole × Desc)
  wrote : Bool
  below : Word
  handles : List (Nat × List (BitVec 16))
  brought : List (Nat × List TileCopy)
deriving DecidableEq, Repr

/-- Table 11-6, with the modes of UPDATE apart; `unknown` for an opcode not in the table. -/
inductive Op
  | endPlan | waitBeat | mark | product | move | gather | scatterAdd | settle | reduce | apply | lazy | normsq | updateBad
  | prune | regrow | commit | score | rosterStep | unknown
deriving DecidableEq, Repr

/-- What a MOVE or GATHER that goes through queues has still to do (R243, R246, R288): its source and destination where they are
tensors, and in order what is left: a tile or token tile with its target cores, or for a queue as the source the destination tiles. `taken` holds the
slots of the entry at its head while its reads are out. -/
structure Mover where
  src : Option Desc
  dst : Option Desc
  turned : Bool
  queue : Fin 16
  cls : Fin 16
  idx : Option (List Int)
  todo : List (Nat × List (Fin 32))
  taken : List (Fin 32 × Fin 64)
deriving DecidableEq, Repr

/-! ### Work done piece by piece (R164, R171, R188, R190, R245 to R248, R289, R301) -/

/-- What a SETTLE fixes at issue; `below` is the reciprocal scale of the history (R71). -/
structure SettlePlan where
  src : Desc
  dst : Desc
  sides : List (Desc × Scale)
  chain : List Stage
  scale : Scale
  record : Option (List Byte)
  clamped : Bool
  aligned : Bool
  clear : Bool
  below : Word
deriving DecidableEq, Repr

/-- What the tiles settled so far leave: their statistics, and the largest magnitude of each channel (R75). -/
structure SettleSum where
  stats : Stats
  chanMax : List Word
deriving DecidableEq, Repr

/-- The fields of an UPDATE (Table 11-17). -/
structure UpdFields where
  wide : Bool
  first : Bool
  group : Nat
  divAddr : Nat
  norm : Nat
  sched : Nat
  copy : Nat
  bitmap : Nat
deriving DecidableEq, Repr

/-- What an APPLY or LAZY fixes at issue: the group record in force (R186), gs of R181, and the scale of its narrow copy (R191). -/
structure UpdRun where
  w : Desc
  g : Desc
  f : UpdFields
  isLazy : Bool
  step : Word
  group : List Byte
  gs : Word
  scale : Scale
  below : Word
deriving DecidableEq, Repr

/-- What a NORMSQ fixes at issue (R182). -/
structure NormRun where
  g : Desc
  f : UpdFields
  step : Word
  divisor : Nat
deriving DecidableEq, Repr

/-- What a mask command reads its planes with: its descriptor and the record. -/
structure MaskRun where
  d : Desc
  rec_ : List Byte
  step : Word
deriving DecidableEq, Repr

/-- Counters of PRUNE: positions and blocks. -/
structure PruneSum where
  positions : Nat
  blocks : Nat
deriving DecidableEq, Repr

/-- Counters of REGROW, and the checksum of the patterns so far. -/
structure RegrowSum where
  regrown : Nat
  revived : Nat
  swaps : Nat
  displaced : Nat
  checksum : Nat
deriving DecidableEq, Repr

/-- The commands that work piece by piece, with what the pieces done leave. A MOVE with `inPlace` is the square transpose of R245; the build phase of a
ROSTER_STEP is one piece, `expired` once its fill wait is over below the target (R296 to R298). -/
inductive WorkPlan
  | move (src dst : Desc) (turned inPlace : Bool)
  | gather (src dst : Desc) (idx : List Int)
  | scatter (src dst : Desc) (idx : List Int)
  | settle (p : SettlePlan) (sum : SettleSum)
  | update (u : UpdRun) (stats : Stats)
  | norm (r : NormRun) (sum : DWord)
  | score (m : MaskRun) (sources : Nat)
  | prune (m : MaskRun) (mode drop quota : Nat) (sum : PruneSum)
  | regrow (m : MaskRun) (mode quota : Nat) (sum : RegrowSum)
  | retire (logits : Desc) (gmax : Option Desc)
  | build (expired : Bool) (listed : Option (List Nat × Bool))   -- `listed`: what the build has listed, and whether from prev_version
deriving DecidableEq, Repr

/-- A piece of such work: a tile, token tile, row or list entry by its number; state blocks that an UPDATE does together; and of LAZY the touched bitmap
as it is read and a word of it as it is zeroed (R194). -/
inductive Piece
  | one (k : Nat)
  | blocks (l : List Nat)
  | bitmap
  | word (k : Nat)
deriving DecidableEq, Repr

/-- The work of a command: the pieces that are left, in order, and how many rounds of reads of the first one have gone out. `cores` are those that give
it two system-class slots each (R245, R247), `slots` the slots that they have given. -/
structure Work where
  plan : WorkPlan
  todo : List Piece
  phase : Nat
  cores : List (Fin 32)
  slots : List (Fin 32 × Fin 64)
deriving DecidableEq, Repr

/-- A command of a plan or of a roster body between its issue and its completion. `ending` is the status byte it completes
with once its writes have their responses, `stages` the writes that follow them in order (tier, address, bytes), each stage once
the earlier ones have their responses; `faulted` marks a command whose fault report waits for the queue (R404); `ringStep` is the step of a REDUCE's step
record (R206). `work` is what it has still to do piece by piece, `bad` the beats of its reads that came back unusable, by tier and number (R257, R361). -/
structure InFlight where
  ref : CmdRef
  op : Op
  raw : List Byte
  step : Nat
  label : Word
  cheap : Bool
  nopre : Bool
  deferred : Bool
  descs : List Nat
  writes : List (Nat × Nat)
  target : DWord
  prod : Option Product
  mv : Option Mover
  events : List Half
  ending : Option Byte
  stages : List (List (Bool × Nat × List Byte))
  faulted : Option (Half × Scope)
  relocate : Option (Nat × Nat × Bool)
  skipped : Bool
  ringStep : Option Word
  work : Option Work
  bad : List (Bool × Nat)
deriving DecidableEq, Repr

/-- How a command of the job ended (for last_step, R264). -/
structure CmdEnd where
  plan : Nat
  step : Nat
  faulted : Bool
deriving DecidableEq, Repr

/-! ### Jobs (chapter 13) -/

/-- An address window (Table 13-1). -/
structure Window where
  base : Nat
  size : Nat
  far : Bool
  rw : Bool
deriving DecidableEq, Repr

/-- A job descriptor as read at admission (R307), with the submission entry of Table 11-2. -/
structure JobDesc where
  latency : Bool
  exclusive : Bool
  windows : List Window
  descTable : Nat
  descCount : Nat
  cheapWait : Nat
  cheapBase : Nat
  cheapCount : Nat
  saveBase : Nat
  saveFar : Bool
  ringA : Bool
  ringB : Bool
  overrideMask : BitVec 8
  overrides : List Byte
  exclA : BitVec 128
  exclB : BitVec 128
  planBase : Nat
  baseStep : Nat
  completion : Nat
  statusBase : Nat
  cookie : DWord
deriving DecidableEq, Repr

/-- Table 16-13 state. -/
inductive JobState
  | admitted | running | suspended | ending
deriving DecidableEq, Repr

/-- A ROSTER_STEP in progress (R296 to R301). -/
inductive RosterPhase
  | fillWait | body | retire
deriving DecidableEq, Repr

structure Roster where
  ref : CmdRef
  base : Nat
  workList : Nat
  body : Nat
  phase : RosterPhase
  target : Nat
  maxSeqs : Nat
  endBeat : DWord
  entries : Nat
  kvSlots : Nat
  curVersion : Word
  prevVersion : Word
  vocab : Nat
  logitsDesc : Nat
  gmaxDesc : Nat
  groups : Nat
  templates : List (Word × Word × Word × Nat)
  bindings : List Binding
  listed : List Nat
  alt : Bool
  bodyPos : Nat
  bodyDone : Bool
  poisoned : List (Nat × Half)
  fellBack : Bool
deriving DecidableEq, Repr

/-! ### Cores, slots and tasks (chapters 04, 06 and 10) -/

/-- A stage-buffer slot. `parityRun` counts consecutive fills with a parity error at one word (Table 14-3); `parityHit` tells that
the present fill has had its error; `fetcher` is the command that fetched what it holds (R237). -/
structure Slot where
  tiles : List TileCopy
  hold : Half
  retired : Bool
  owners : List CmdRef
  fetcher : Option CmdRef
  parityRun : Option (Nat × Nat)
  parityHit : Bool
deriving DecidableEq, Repr

/-- A pass of an item: the reduction indices that it loads, its columns within the item, and whether it is the last of its columns' chain. -/
structure PassPlan where
  ks : List Nat
  col : Nat
  cols : Nat
  last : Bool
deriving DecidableEq, Repr

/-- A pass in flight on a gang (R97, R98): its number among the passes of its item, its result rows awaiting verdict, how many replays
of it have failed, and the tokens that a pre-emption kept from being fed (R89). -/
structure Pass where
  number : Nat
  rows : List ResultRow
  replays : Nat
  unfed : List Nat
deriving DecidableEq, Repr

/-- An item being walked by a core controller (R20, R281). `passes` are its passes, once its first one has started; `following` is the pass that has
started behind the one in flight (R84, R132). `kept` holds the clean rows of final passes until the item is clean, `replay` the rows still to be
replayed (R98), `unfed` the tokens of the next pass that a pre-emption kept from being fed (R89), `arrived` the items of split participants combined
into it (R138), `queued` the handles that feed it (R284), `held` the slots whose hold counts it has raised (R254). `asked` holds the ranges that its drain
has asked for beside its rows (R63, R75, R133, R362). -/
structure Task where
  ref : CmdRef
  item : Nat
  gang : List (Fin 4)
  field : Nat
  passes : Option (List PassPlan)
  nextPass : Nat
  pass : Option Pass
  following : Option Nat
  kept : List ResultRow
  replay : List Nat
  unfed : List Nat
  replays : Nat
  carrySlots : List (Fin 64)
  accBase : Nat
  accRows : Nat
  done : Bool
  level : Nat
  arrived : List Nat
  poison : List Nat
  held : List (Fin 32 × Fin 64)
  queued : List (BitVec 16)
  asked : List (Bool × Nat × Nat)
deriving DecidableEq, Repr

structure CoreCounters where
  accSat : Word
  deadlineMiss : Word
  feederCheck : Word
  drainCheck : Word
  sbParity : Word
  ctrlParity : Word
deriving DecidableEq, Repr

/-- A core (R9, R10). `lastSlot` is the polish cycle whose forced slot it took last (R337). -/
structure Core where
  inService : Bool
  sb : Mem
  slots : Vector Slot 64
  hampers : Vector (List (BitVec 16)) 16
  tasks : List Task
  depth : Nat
  shape : BitVec 3
  feederRun : List (Nat × Nat)
  drainRun : List (Nat × Nat)
  lastSlot : Option Nat
  counters : CoreCounters
deriving DecidableEq, Repr

structure FacetCounters where
  checkMismatch : Word
  dualMismatch : Word
  residue : Word
  accStage : Word
  replayLimit : Word
  polish : Word
  polishRepeat : Word
deriving DecidableEq, Repr

/-- A check cell (R85): the field and the physical row that it serves, and for each logical row of it the weight sum and in SQDIST the sum of
squares. -/
structure CheckCell where
  field : Nat
  row : Nat
  sums : List Int
  squares : List Int
deriving DecidableEq, Repr

/-- A facet's accumulator memory, with the residue of each word at the word's number (R332), its check column as last loaded (R85), and its polish
(R336 to R338). `signature` is its signature register, `step` counts the steps of the polish that have passed; `repeating` is set in the run that follows a failed step. -/
structure Facet where
  acc : Mem
  residues : Mem
  check : List CheckCell
  signature : DWord
  step : BitVec 6
  polishing : Bool
  repeating : Bool
  immediate : Bool
  forced : Bool
  polished : Bool
  failStep : BitVec 6
  polishBeat : DWord
  suppressedPasses : Nat
  residueRun : Option (Nat × Nat)
  accRun : List (Nat × Nat)
  counters : FacetCounters
deriving DecidableEq, Repr

/-- A handle on its way to a hamper queue of a core (R253). -/
structure Transit where
  core : Fin 32
  queue : Fin 16
  handle : BitVec 16
deriving DecidableEq, Repr

/-! ### Tile ports (chapter 15) -/

/-- Whose traffic a request is (R359, R363): of a restore's reads (R325), of the scan (R261), of the entry that a client has had taken and its job
descriptor (R310), of a job's plan (R266), of the control data of its next command, and of what the drain reads beside an item that settles (R63, R75,
R133, R362). -/
inductive Origin
  | boot
  | block
  | save
  | restore
  | scan
  | client (index : Fin 256)
  | plan (job : Fin 32)
  | control (job : Fin 32)
  | cmd (job : Fin 32) (ref : CmdRef)
  | drain (job : Fin 32) (ref : CmdRef) (item : Nat)
  | bucket (chan : Fin 4)
deriving DecidableEq, Repr

/-- Where the data of a read go: a tile copy of a slot of a core, by the copy's offset. -/
structure Fill where
  core : Fin 32
  slot : Fin 64
  offset : Nat
deriving DecidableEq, Repr

/-- A request of a tile port (Table 15-5). `tag` is none while it waits for a free tag (R360); `drain` marks a settle write of
R259, `settle` one that holds a reserved tag. Of a write, `start` and `data` are the words that its strobes select, `bad` its poisoned
beats, and `old` what its bytes held before it, for R363. -/
structure Req where
  tag : Option Byte
  write : Bool
  addr : Nat
  beats : Nat
  got : Nat
  far : Bool
  ro : Bool
  window : BitVec 4
  cls : BitVec 2
  drain : Bool
  settle : Bool
  origin : Origin
  timedOut : Bool
  start : Nat
  data : List Byte
  bad : List Nat
  old : List Host.Cell
  fills : List Fill
deriving DecidableEq, Repr

/-- A beat of the write-data channel (Table 15-5). -/
structure WriteBeat where
  data : List Byte
  par : DWord
  strb : DWord
  poison : Bool
  last : Bool
deriving DecidableEq, Repr

structure TilePort where
  reqs : List Req
  timeouts : Word
  protos : Word
  werrs : Word
  rdParity : Word
  rdPoison : Word
  windowRefusals : Word
  rdBeats : DWord
  wrBeats : DWord
deriving DecidableEq, Repr

/-! ### Rings (chapters 09 and 15) -/

/-- A flit payload (Table 15-9). `escape`: while it waits to be sent, that it may use an escape credit; once sent or received,
that it occupies an escape buffer. `adder` counts the disagreements that its addition will meet (R213). `bucket` is the step, the ring_tag and the
chan_seq of the bucket for which an engine sends it. -/
structure Payload where
  bytes : List Byte
  escape : Bool
  adder : Nat
  bucket : Option (Word × Word × Nat)
deriving DecidableEq, Repr

inductive PortState
  | down | training | up | outOfService
deriving DecidableEq, Repr

/-- The inputs of the FDI of a port in UCIe mode (R369), as last seen: `state` is pl_state_sts. -/
structure FdiIn where
  state : BitVec 4
  inband : Bool
  valid : Bool
  streaming : Bool
  raw : Bool
deriving DecidableEq, Repr

/-- `laneEn`, `serdesRstN`, `lpStateReq` and `lpLinkError` are the outputs of those names (R353, Table 15-8, R369), `laneLock` the input rp_lane_lock as last
seen (no rule raises rp_lp_linkerror, log 165), `laneDelay` the bits by which each lane is held back so that the words of a flit stand side by side (R368), `fdi` the inputs of UCIe mode. `phyUp`:
the physical layer of this training attempt is up; `lastTry` is the beat of the attempt (R373). `sent` are the flits last sent, oldest first, up to
1,024 of them. -/
structure RingPort where
  state : PortState
  everUp : Bool
  laneEn : BitVec 16
  serdesRstN : Bool
  lpStateReq : BitVec 4
  lpLinkError : Bool
  laneLock : BitVec 16
  laneDelay : List Nat
  fdi : FdiIn
  phyUp : Bool
  lastTry : DWord
  txSeq : Half
  rxSeq : Half
  peerNorm : Half
  peerEsc : Half
  spentNorm : Half
  spentEsc : Half
  freedNorm : Half
  freedEsc : Half
  unacked : List (Half × Payload)
  toSend : List Payload
  nakSent : Bool
  replays : Half
  noProgress : Nat
  trainGood : Nat
  crcs : Word
  naks : Word
  trainFails : Word
  downs : Word
  adders : Word
  checksums : Word
  peerUid : Word
  heard : List (BitVec 128 × DWord)
  downMask : BitVec 128
  ucieRate : Byte
  sent : List (List Byte)
deriving DecidableEq, Repr

/-- A REDUCE as handed to its channel engine (R203 to R207). -/
structure Reduce where
  job : Fin 32
  ref : CmdRef
  bucket : Nat
  step : Word
  tag : Word
  weight : Nat
  deadline : Option DWord
  limit : DWord
  seq : Nat
  wide : Bool
  thin : Nat
  extents : List (Nat × Nat × Nat)
  elements : Nat
  members : Nat
  rank : Nat
  mask : BitVec 128
deriving DecidableEq, Repr

/-- Header fields of a segment (Table 09-6). -/
structure SegHeader where
  tag : Word
  step : Word
  seq : Nat
  lap : Nat
  segment : Nat
  phase : Nat
  empty : Bool
  m : Nat
  elements : Nat
  weightSum : DWord
  bitmap : BitVec 128
  deadline : DWord
  limit : DWord
deriving DecidableEq, Repr

/-- The bucket a channel engine runs (R209 to R224), or with `relay` one whose REDUCE has not arrived and that the engine only
relays (R229). `incoming` counts the incoming segments completed in this lap, `flits` the data flits of the current one, `ownLaps` the laps
whose own segment has been sent; `wasReady` holds when the contribution was observed ready as the bucket started or at a later beat before its
decision; `short` when a segment of the lap was not full. Of the reads of the own contribution (R212), `readSeg` is the segment they are for,
in the order in which the engine needs its own segments, `readTo` the elements of it asked for so far, and `badBeats` the beats that came back
unusable. `ownAt` counts the elements handed over of a segment that this block's elements alone make, its own or an empty partial that it fills;
`ownSum` and `ownBad` are the checksum and the poison of its own segment so far. -/
structure Active where
  red : Reduce
  relay : Bool
  wasReady : Bool
  decision : Option Bool
  lap : Nat
  incoming : Nat
  ownLaps : Nat
  readSeg : Option Nat
  readTo : Nat
  badBeats : List Nat
  ownAt : Nat
  ownSum : DWord
  ownBad : Bool
  header : Option SegHeader
  flits : Nat
  sumIn : DWord
  sumOut : DWord
  ownPoison : Bool
  poison : Bool
  finals : Option (BitVec 128 × DWord)
  disagree : Bool
  short : Bool
  passed : Bool
deriving DecidableEq, Repr

/-- A bucket that an engine relayed before its REDUCE came (R229): its bitmap and divisor, and the laps relayed where the engine could not tell whether more
were to come. -/
structure Relayed where
  step : Word
  tag : Word
  seq : Nat
  bitmap : BitVec 128
  divisor : DWord
  laps : Option Nat
deriving DecidableEq, Repr

/-- A channel engine. `abandoned` names the steps abandoned on it: step, ring_tag and the chan_seq of the bucket with which each
began (R227, R228). `discard` is a segment being discarded (its tag, the flits still to come), `passing` the flits still to come of a segment
that an excluded member relays (R201). `remembered` are the last 16 relayed buckets (R229). -/
structure Channel where
  step : Word
  tag : Word
  lastSeq : Half
  abandoned : List (Word × Word × Nat)
  abandonTold : Bool
  staging : List Reduce
  active : Option Active
  rx : List Payload
  discard : Option (Word × Nat)
  passing : Nat
  remembered : List Relayed
deriving DecidableEq, Repr

/-! ### Control hierarchy -/

inductive PairState
  | out | running | halted | selfCheck
deriving DecidableEq, Repr

/-- A sequencer pair; `lost` is set once it has left service (R343), until a cold or power-on reset. -/
structure Pair where
  state : PairState
  lost : Bool
  lockstep : Word
  parity : Word
  lastIndex : Word
  itemsTaken : Word
deriving DecidableEq, Repr

/-- A plan chunk of 4 KiB read ahead of the fetch stage (R266); shorter where it ends before a command that was not read well. -/
structure PlanChunk where
  number : Nat
  bytes : List Byte
deriving DecidableEq, Repr

/-- The control state of a core that a save keeps (Table 13-3, control region). -/
structure CoreCtl where
  slots : Vector Slot 64
  hampers : Vector (List (BitVec 16)) 16
  tasks : List Task
deriving DecidableEq, Repr

/-- What a save keeps besides the tier-0 image (Table 13-3): control, hand-over state and which units were in service. -/
structure Saved where
  ctl : Vector CoreCtl 32
  transit : List Transit
  cores : BitVec 32
  facets : BitVec 128
  pairs : BitVec 8
  cheap : Bool
  slotLive : List DWord
  accLive : List Byte
deriving DecidableEq, Repr

/-- The reads of control data for the command at the head of the fetch stage: the ranges asked for, and the beats that came back unusable, by tier
(R267, R361). -/
structure Ask where
  ranges : List (Bool × Nat × Nat)
  bad : List (Bool × Nat)
deriving DecidableEq, Repr

def Ask.none : Ask where
  ranges := []
  bad := []

/-- A job that holds a place. `chanSeq` is the last REDUCE issued on each channel: step, ring_tag and chan_seq (R218); `chanSteps` is, for each vector of
channel maxima, the step whose maxima it holds (R75). `reading` is the plan chunk being read, with the beats of it that came back unusable (R266); `ask` what has been
asked for the command at the head of the fetch stage. `belows` is, for each scale record that the job produces, the last step that issued on it and the
reciprocal of the scale that E4M3 would use on the history of its first issue (R71). -/
structure Job where
  client : Fin 256
  desc : JobDesc
  startBeat : DWord
  state : JobState
  saves : Word
  done : Word
  firstFault : Half
  faultIndex : Word
  faultLabel : Word
  ends : List CmdEnd
  fetchPos : Nat
  chunks : List PlanChunk
  flight : List InFlight
  roster : Option Roster
  saved : Option Saved
  chanSeq : Vector (Option (Word × Word × Nat)) 4
  chanSteps : List (Nat × Nat)
  ended : Bool
  reading : Option (Nat × List Nat)
  ask : Ask
  belows : List (Nat × Word × Word)
deriving DecidableEq, Repr

/-- An entry that the scan has taken for admission (R261, R263), with the ring that it was taken from (R391). `whole` holds once the entry has been read
and its job descriptor is being read, `bad` where one of these reads returned poison or a parity error (R310). -/
structure Taken where
  entry : List Byte
  since : DWord
  waiting : Bool
  base : Nat
  sizeLog : Nat
  whole : Bool
  bad : Bool
deriving DecidableEq, Repr

structure Client where
  submitted : Word
  completed : Word
  taken : Option Taken
deriving DecidableEq, Repr

/-- The scan of a beat (R261): the client table is read, then the headers of the enabled rings. -/
inductive ScanPhase
  | idle | table | heads
deriving DecidableEq, Repr

/-- The scan in progress: the table that it reads (R391), its beat (R309), and the beats of its reads that came back unusable. -/
structure Scan where
  phase : ScanPhase
  base : Nat
  beat : DWord
  bad : List Nat
deriving DecidableEq, Repr

/-- The steps of a pre-emption (R317), its deferral by ring steps (R319), and the restore (R325). -/
inductive SwitchPhase
  | stopping | saving | clearing | deferred | restoreHeader | restoring
deriving DecidableEq, Repr

/-- A pre-emption or restore in progress. `cheapUntil` is the beat until which the fetch stage goes on towards a cheap point
(R323); `stopAt` is the plan index of the cheap command once it has issued; `waits` the ring steps that were in progress at the request, each by
channel, REDUCE and number among the sends of its bucket (R230, R318, R319). `cursor` is the next chunk of the save area to write or to read (Table 13-3),
`bad` tells that a read of the restore came back unusable (R325). -/
structure Switch where
  phase : SwitchPhase
  cheapUntil : Option DWord
  stopAt : Option Nat
  cheap : Bool
  saveBeat : DWord
  waits : List (Fin 4 × CmdRef × Nat)
  cursor : Nat
  bad : Bool
deriving DecidableEq, Repr

/-- Job scheduling (R313 to R317, Table 16-12). -/
structure Sched where
  run : Option (Fin 32)
  switch : Option Switch
  sliceStart : DWord
  lastTurn : Option (DWord × Nat)
deriving DecidableEq, Repr

/-- The lead pair in force (R18, Table 16-8). -/
structure Lead where
  pair : BitVec 3
  valid : Bool
deriving DecidableEq, Repr

/-- The management of the block: everything that is not a replicated unit. -/
structure Mgmt where
  pins : Pins
  boot : Boot
  cause : Cause
  quiesce : Option Quiesce
  cut : Cut
  rwl : Rwl
  fence : BitVec 128
  ra : RegPort
  irqStatus : Word
  irqEnable : Word
  submitBase : DWord
  polish : Polish
  bounds : Bounds
  loops : Loops
  beat : Beat
  lead : Lead
deriving DecidableEq, Repr

structure State where
  pending : List Instr
  fresh : Nat
  mgmt : Mgmt
  log : Log
  ext : ExtMem
  sched : Sched
  scan : Scan
  jobs : Vector (Option Job) 32
  clients : Vector Client 256
  cores : Vector Core 32
  facets : Vector Facet 128
  transit : List Transit
  tilePorts : Vector TilePort 32
  ringPorts : Vector RingPort 4
  channels : Vector Channel 4
  pairs : Vector Pair 8
deriving DecidableEq, Repr

/-- No command of this model stops with a fault: what the spec calls a fault is a report of the block (R399), after which
the block goes on. -/
inductive Fault
deriving DecidableEq, Repr

/-- Reasons for which a command has no meaning. -/
inductive Refusal
  /-- Raised by the arm of a command that has no meaning yet; safe, since nothing is claimed of it. -/
  | notModelled (mnemonic : String)
deriving DecidableEq, Repr

/-! ### Reset values -/

def Log.reset : Log where
  records := []
  count := 0
  queue := []
  held := []
  dropped := 0
  sel := 0
  selHeld := false
  data := List.replicate 8 0
  mcRestarts := 0

def Pins.reset : Pins where
  coldN := false
  rpMode := 0
  arrayNominal := 0
  throttle := 0
  droopIn := false
  droopDet := 0
  svcDegraded := false
  svcReplace := false
  swState := 0
  temps := Vector.replicate 32 0
  trip := false
  wrapper := .bypass
  wso := []
  scanned := false

def Boot.reset : Boot where
  cutState := .booting
  step := 1
  fault := 0
  warm := false
  dead := false
  keyHash := []
  image := []
  digest := []
  unread := 0
  beats := 0
  beatBad := false
  stopped := false
  restarting := false
  held := none

def Cut.reset : Cut where
  isApplied := false
  structureBytes := []
  jobDefaults := []
  operating := []
  mcFirmware := []
  seqFirmware := []
  serial := 0
  sealOnBoot := false

def Rwl.reset : Rwl where
  facetDisable := 0
  shapeMenu := 0
  polishPeriod := 0
  isSealed := false
  structDigest := List.replicate 48 0

def RegPort.reset : RegPort where
  rdata := 0
  error := false
  latched := []
  staged := []

def Polish.reset : Polish where
  disable := false
  steal := true
  owed := 0
  tripSeen := false
  droopExceeded := false

def Bounds.reset : Bounds where
  prefetchMin := 0x01
  dutyFloor := 0x1
  stretchMax := 0x4
  thermalTarget := 0x5A

def Loops.reset : Loops where
  duty := 8
  tripped := false
  stretch := 0
  excursion := false
  narrowed := false

def Beat.reset : Beat where
  observed := 0
  running := false
  stalled := false
  jumped := false
  ignored := false
  offPeriod := false
  measured := 0
  lastOff := none
  readyBeat := 0

def Mgmt.reset : Mgmt where
  pins := Pins.reset
  boot := Boot.reset
  cause := { kind := 0, coldByRegister := false, jobByFault := false, count := 0 }
  quiesce := none
  cut := Cut.reset
  rwl := Rwl.reset
  fence := 0
  ra := RegPort.reset
  irqStatus := 0
  irqEnable := 0x001F0303
  submitBase := 0
  polish := Polish.reset
  bounds := Bounds.reset
  loops := Loops.reset
  beat := Beat.reset
  lead := { pair := 0, valid := false }

def Slot.empty : Slot where
  tiles := []
  hold := 0
  retired := false
  owners := []
  fetcher := none
  parityRun := none
  parityHit := false

def CoreCounters.reset : CoreCounters := ⟨0, 0, 0, 0, 0, 0⟩

def Core.reset : Core where
  inService := false
  sb := []
  slots := Vector.replicate 64 Slot.empty
  hampers := Vector.replicate 16 []
  tasks := []
  depth := 0
  shape := 0
  feederRun := []
  drainRun := []
  lastSlot := none
  counters := CoreCounters.reset

def FacetCounters.reset : FacetCounters := ⟨0, 0, 0, 0, 0, 0, 0⟩

def Facet.reset : Facet where
  acc := []
  residues := []
  check := []
  signature := 0
  step := 0
  polishing := false
  repeating := false
  immediate := false
  forced := false
  polished := false
  failStep := 0
  polishBeat := 0
  suppressedPasses := 0
  residueRun := none
  accRun := []
  counters := FacetCounters.reset

def TilePort.reset : TilePort where
  reqs := []
  timeouts := 0
  protos := 0
  werrs := 0
  rdParity := 0
  rdPoison := 0
  windowRefusals := 0
  rdBeats := 0
  wrBeats := 0

def RingPort.reset : RingPort where
  state := .down
  everUp := false
  laneEn := 0
  serdesRstN := false
  lpStateReq := 0
  lpLinkError := false
  laneLock := 0
  laneDelay := []
  fdi := { state := 0, inband := false, valid := false, streaming := false, raw := false }
  phyUp := false
  lastTry := 0
  txSeq := 0
  rxSeq := 0
  peerNorm := 0
  peerEsc := 0
  spentNorm := 0
  spentEsc := 0
  freedNorm := 0
  freedEsc := 0
  unacked := []
  toSend := []
  nakSent := false
  replays := 0
  noProgress := 0
  trainGood := 0
  crcs := 0
  naks := 0
  trainFails := 0
  downs := 0
  adders := 0
  checksums := 0
  peerUid := 0xFFFFFFFF
  heard := []
  downMask := 0
  ucieRate := 0
  sent := []

def Channel.reset : Channel where
  step := 0
  tag := 0
  lastSeq := 0xFFFF
  abandoned := []
  abandonTold := false
  staging := []
  active := none
  rx := []
  discard := none
  passing := 0
  remembered := []

def Pair.reset : Pair where
  state := .out
  lost := false
  lockstep := 0
  parity := 0
  lastIndex := 0xFFFFFFFF
  itemsTaken := 0

def Scan.reset : Scan where
  phase := .idle
  base := 0
  beat := 0
  bad := []

def Client.reset : Client where
  submitted := 0
  completed := 0
  taken := none

/-- The block just after `pwr_logic_good` has risen, still held by `pwr_cold_n` (Table 15-2, step 2), with no command waiting
and nothing known of external memory. -/
def State.reset : State where
  pending := []
  fresh := 0
  mgmt := Mgmt.reset
  log := Log.reset
  ext := { near := [], far := [], nearPoison := [], farPoison := [] }
  sched := { run := none, switch := none, sliceStart := 0, lastTurn := none }
  scan := Scan.reset
  jobs := Vector.replicate 32 none
  clients := Vector.replicate 256 Client.reset
  cores := Vector.replicate 32 Core.reset
  facets := Vector.replicate 128 Facet.reset
  transit := []
  tilePorts := Vector.replicate 32 TilePort.reset
  ringPorts := Vector.replicate 4 RingPort.reset
  channels := Vector.replicate 4 Channel.reset
  pairs := Vector.replicate 8 Pair.reset

end Sys2Proof.Machine
end

