-- ==== Sys2Proof/Machine/Bytes.lean ====
section
/-! DEFINITION. Little-endian fields (R5) and byte memories in canonical form. -/

namespace Sys2Proof.Machine

/-- The unsigned value of a little-endian byte string (R5). -/
def leNat : List Byte → Nat
  | [] => 0
  | b :: r => b.toNat + 256 * leNat r

/-- `n` little-endian bytes of a value (R5). -/
def leBytes : Nat → Nat → List Byte
  | 0, _ => []
  | n + 1, v => BitVec.ofNat 8 v :: leBytes n (v / 256)

/-- A field of `n` bytes at offset `off` of a structure; bytes beyond the end read as 0. -/
def field (bs : List Byte) (off n : Nat) : Nat := leNat ((List.range n).map fun i => bs.getD (off + i) 0)

def u8 (bs : List Byte) (off : Nat) : Nat := (bs.getD off 0).toNat
def u16 (bs : List Byte) (off : Nat) : Nat := field bs off 2
def u32 (bs : List Byte) (off : Nat) : Nat := field bs off 4
def u64 (bs : List Byte) (off : Nat) : Nat := field bs off 8
def w32 (bs : List Byte) (off : Nat) : Word := BitVec.ofNat 32 (u32 bs off)
def w64 (bs : List Byte) (off : Nat) : DWord := BitVec.ofNat 64 (u64 bs off)

/-- Bits [hi:lo] of a field. -/
def bits (v hi lo : Nat) : Nat := v / 2 ^ lo % 2 ^ (hi + 1 - lo)

/-- Bit `i` of a field. -/
def bit (v i : Nat) : Bool := v.testBit i

/-- Number of set bits among the lowest `n`. -/
def popcount (v n : Nat) : Nat := ((List.range n).filter v.testBit).length

/-- Whether every byte of a range of a structure is zero (reserved fields, R6). -/
def zeroRange (bs : List Byte) (off n : Nat) : Bool := ((bs.drop off).take n).all (· == 0)

/-! ### Sets of numbers as rising lists -/

/-- Inserts a number into a rising list without repeats. -/
def insertNat (x : Nat) : List Nat → List Nat
  | [] => [x]
  | y :: r => if x < y then x :: y :: r else if x = y then y :: r else y :: insertNat x r

def insertPair (x : Nat × Nat) : List (Nat × Nat) → List (Nat × Nat)
  | [] => [x]
  | y :: l => if x.1 ≤ y.1 then x :: y :: l else y :: insertPair x l

/-- Pairs in ascending order of their first parts. -/
def sortPairs (l : List (Nat × Nat)) : List (Nat × Nat) := l.foldr insertPair []

def sortNat (l : List Nat) : List Nat := l.foldl (fun acc x => insertNat x acc) []

/-! ### Byte memories -/

/-- The byte at an address; `Config.emptyByte` where nothing is listed. -/
def Mem.read : Mem → Nat → Byte
  | [], _ => Config.emptyByte
  | (k, v) :: r, a => if k < a then Mem.read r a else if k = a then v else Config.emptyByte

/-- Writes one byte and keeps the canonical form: the empty byte removes the entry. -/
def Mem.write : Mem → Nat → Byte → Mem
  | [], a, b => if b = Config.emptyByte then [] else [(a, b)]
  | (k, v) :: r, a, b =>
    if k < a then (k, v) :: Mem.write r a b
    else if k = a then (if b = Config.emptyByte then r else (a, b) :: r)
    else if b = Config.emptyByte then (k, v) :: r else (a, b) :: (k, v) :: r

/-- Writes consecutive bytes from an address. -/
def Mem.writeBytes : Mem → Nat → List Byte → Mem
  | m, _, [] => m
  | m, a, b :: r => Mem.writeBytes (m.write a b) (a + 1) r

/-- The entries of a range. -/
def Mem.part (m : Mem) (a n : Nat) : Mem := m.filter fun c => a ≤ c.1 && c.1 < a + n

/-- The bytes of a range. -/
def Mem.bytes (m : Mem) (a n : Nat) : List Byte :=
  let p := m.part a n
  (List.range n).map fun i => p.read (a + i)

/-- A little-endian field of memory. -/
def Mem.field (m : Mem) (a n : Nat) : Nat := leNat (m.bytes a n)

/-- Clears a range. -/
def Mem.clear (m : Mem) (a n : Nat) : Mem := m.filter fun c => !(a ≤ c.1 && c.1 < a + n)

/-- Writes a list of cells, one after another. -/
def Mem.writeCells : Mem → List Host.Cell → Mem
  | m, [] => m
  | m, c :: r => Mem.writeCells (m.write c.1 c.2) r

/-- The canonical form: addresses strictly rising from above `lo`, no entry equal to the empty byte. -/
def Mem.wfFrom : Nat → Mem → Bool
  | _, [] => true
  | lo, (k, v) :: r => lo ≤ k && v != Config.emptyByte && Mem.wfFrom (k + 1) r

def Mem.wf (m : Mem) : Bool := m.wfFrom 0

/-! ### Poison of external memory, per 512-byte beat (R365) -/

/-- The beats that a range covers. -/
def beatsOf (a n : Nat) : List Nat :=
  if n = 0 then [] else (List.range ((a + n - 1) / 512 - a / 512 + 1)).map fun i => a / 512 + i

/-- Adds a beat to a rising list of beats. -/
def poisonAdd : List Nat → Nat → List Nat
  | [], b => [b]
  | k :: r, b => if k < b then k :: poisonAdd r b else if k = b then k :: r else b :: k :: r

/-- R365 item 5: a full beat replaces the stored poison, a partial beat can only set it. -/
def poisonWrite (l : List Nat) (beat : Nat) (full poison : Bool) : List Nat :=
  if poison then poisonAdd l beat else if full then l.filter (· ≠ beat) else l

def ExtMem.mem (e : ExtMem) (far : Bool) : Mem := if far then e.far else e.near
def ExtMem.poison (e : ExtMem) (far : Bool) : List Nat := if far then e.farPoison else e.nearPoison

def ExtMem.setMem (e : ExtMem) (far : Bool) (m : Mem) : ExtMem :=
  if far then { e with far := m } else { e with near := m }

def ExtMem.setPoison (e : ExtMem) (far : Bool) (l : List Nat) : ExtMem :=
  if far then { e with farPoison := l } else { e with nearPoison := l }

/-- Whether a read of a range meets a poisoned beat. -/
def ExtMem.poisoned (e : ExtMem) (far : Bool) (a n : Nat) : Bool := (beatsOf a n).any fun b => (e.poison far).contains b

end Sys2Proof.Machine
end

