-- ==== Sys2Proof/Machine/Fp.lean ====
section
/-! DEFINITION. The FP32 arithmetic of the drains, ring adders and accumulate stages (R59, R129, R137, R144, R213): IEEE 754
binary32 with round-to-nearest-even and subnormals kept. A finite value is an integer number of units of 2^-149. -/

namespace Sys2Proof.Machine

def fpNaN : Word := 0x7FC00000
def fpInf (neg : Bool) : Word := if neg then 0xFF800000 else 0x7F800000
def fpZero (neg : Bool) : Word := if neg then 0x80000000 else 0
def fpOne : Word := 0x3F800000

def fpNeg? (x : Word) : Bool := x.getLsbD 31
def fpExp (x : Word) : Nat := x.toNat / 2 ^ 23 % 256
def fpFrac (x : Word) : Nat := x.toNat % 2 ^ 23
def fpIsNaN (x : Word) : Bool := fpExp x == 255 && fpFrac x != 0
def fpIsInf (x : Word) : Bool := fpExp x == 255 && fpFrac x == 0
def fpIsFinite (x : Word) : Bool := fpExp x != 255
def fpIsZero (x : Word) : Bool := x.toNat % 2 ^ 31 == 0

/-- Magnitude of a finite value in units of 2^-149. -/
def fpMag (x : Word) : Nat := if fpExp x = 0 then fpFrac x else (2 ^ 23 + fpFrac x) * 2 ^ (fpExp x - 1)

/-- A finite value in units of 2^-149. -/
def fpInt (x : Word) : Int := if fpNeg? x then -(fpMag x : Int) else fpMag x

/-- n / d rounded to the nearest integer, ties to even. -/
def rneDiv (n d : Nat) : Nat :=
  let q := n / d
  let r := n % d
  if 2 * r > d || (2 * r == d && q % 2 == 1) then q + 1 else q

/-- n / d rounded to the nearest integer, ties away from zero. -/
def rnaDiv (n d : Nat) : Nat := (2 * n + d) / (2 * d)

/-- RNE to binary32 of the value ±(n / d) × 2^-149, d not 0. -/
def fpRound (neg : Bool) (n d : Nat) : Word :=
  let q := n / d
  let k := Nat.log2 q - 23
  let r := k * 2 ^ 23 + rneDiv n (d * 2 ^ k)
  let b := if r ≥ 255 * 2 ^ 23 then 255 * 2 ^ 23 else r
  BitVec.ofNat 32 (b + if neg then 2 ^ 31 else 0)

/-- RNE to binary32 of ±mag × 2^e. -/
def fpScaled (neg : Bool) (mag : Nat) (e : Int) : Word :=
  if e + 149 ≥ 0 then fpRound neg (mag * 2 ^ (e + 149).toNat) 1 else fpRound neg mag (2 ^ (-(e + 149)).toNat)

/-- RNE to binary32 of an integer. -/
def fpOfInt (v : Int) : Word := fpScaled (v < 0) v.natAbs 0

def fpNegate (x : Word) : Word := x ^^^ 0x80000000
def fpAbs (x : Word) : Word := x &&& 0x7FFFFFFF

/-- IEEE addition; a NaN result is 0x7FC0_0000 (R144, R213). -/
def fpAdd (x y : Word) : Word :=
  if fpIsNaN x || fpIsNaN y then fpNaN
  else if fpIsInf x then (if fpIsInf y && fpNeg? x != fpNeg? y then fpNaN else x)
  else if fpIsInf y then y
  else
    let s := fpInt x + fpInt y
    if s = 0 then fpZero (fpNeg? x && fpNeg? y) else fpRound (s < 0) s.natAbs 1

def fpSub (x y : Word) : Word := if fpIsNaN y then fpNaN else fpAdd x (fpNegate y)

def fpMul (x y : Word) : Word :=
  let neg := fpNeg? x != fpNeg? y
  if fpIsNaN x || fpIsNaN y then fpNaN
  else if fpIsInf x || fpIsInf y then (if fpIsZero x || fpIsZero y then fpNaN else fpInf neg)
  else fpRound neg (fpMag x * fpMag y) (2 ^ 149)

/-- One correctly rounded division (R179). -/
def fpDiv (x y : Word) : Word :=
  let neg := fpNeg? x != fpNeg? y
  if fpIsNaN x || fpIsNaN y then fpNaN
  else if fpIsInf x then (if fpIsInf y then fpNaN else fpInf neg)
  else if fpIsInf y then fpZero neg
  else if fpIsZero y then (if fpIsZero x then fpNaN else fpInf neg)
  else fpRound neg (fpMag x * 2 ^ 149) (fpMag y)

/-- The value compared: finite values in units of 2^-149, infinities beyond every finite value. Not for NaN. -/
def fpOrd (x : Word) : Int := if fpIsInf x then (if fpNeg? x then -(2 ^ 300) else 2 ^ 300) else fpInt x

/-- x < y; false when either is NaN. -/
def fpLt (x y : Word) : Bool := !fpIsNaN x && !fpIsNaN y && fpOrd x < fpOrd y

/-- x ≤ y; false when either is NaN. -/
def fpLe (x y : Word) : Bool := !fpIsNaN x && !fpIsNaN y && fpOrd x ≤ fpOrd y

def fpMax (x y : Word) : Word := if fpLt x y then y else x
def fpMin (x y : Word) : Word := if fpLt y x then y else x

/-- A positive, normal, finite value (R60, Table 08-1). -/
def fpPosNormal (x : Word) : Bool := !fpNeg? x && fpExp x != 0 && fpExp x != 255

/-! ### Elementary functions (R144): the exact value rounded once -/

/-- Bit-by-bit integer square root of `n`, from bit `k` down. -/
def isqrtFrom : Nat → Nat → Nat → Nat
  | 0, n, r => if (r + 1) * (r + 1) ≤ n then r + 1 else r
  | k + 1, n, r => isqrtFrom k n (if (r + 2 ^ (k + 1)) * (r + 2 ^ (k + 1)) ≤ n then r + 2 ^ (k + 1) else r)

def isqrt (n : Nat) : Nat := isqrtFrom (Nat.log2 n / 2 + 1) n 0

/-- RECIP: 1 / z. -/
def fpRecip (z : Word) : Word := fpDiv fpOne z

/-- RSQRT: 1 / √z, correctly rounded. In units of 2^-149 the value is √(2^447 / m), m the magnitude of z; 64 further bits and
a sticky bit decide the rounding. -/
def fpRsqrt (z : Word) : Word :=
  if fpIsNaN z then fpNaN
  else if fpIsZero z then fpInf (fpNeg? z)
  else if fpNeg? z then fpNaN
  else if fpIsInf z then 0
  else
    let m := fpMag z
    let s := isqrt (2 ^ 575 / m)
    fpRound false (2 * s + if s * s * m = 2 ^ 575 then 0 else 1) (2 ^ 65)

/-- Fixed-point precision in which e^x and tanh x are evaluated before their one rounding. -/
def fixBits : Nat := 600

/-- Taylor sum of e^y with y in units of 2^-fixBits: `fuel` more terms from term number `n` of value `t`. -/
def expTaylor : Nat → Nat → Int → Int → Int → Int
  | 0, _, _, _, acc => acc
  | fuel + 1, n, y, t, acc =>
    let t' := t * y / ((2 ^ fixBits : Nat) * (n + 1 : Nat) : Int)
    expTaylor fuel (n + 1) y t' (acc + t')

/-- v squared `k` times in fixed point. -/
def fixSquares : Nat → Int → Int
  | 0, v => v
  | k + 1, v => fixSquares k (v * v / (2 ^ fixBits : Nat))

/-- e^(u × 2^-149) in units of 2^-fixBits: the argument is halved ten times, expanded to 90 terms and squared back. The spec asks
for correct rounding; DEDUCED (log 5) that 400 and more good bits decide it for every binary32 input. -/
def expFix (u : Int) : Int :=
  let y := u * (2 ^ (fixBits - 159) : Nat)
  let one : Int := (2 ^ fixBits : Nat)
  fixSquares 10 (expTaylor 90 0 y one one)

/-- EXP: e^z. -/
def fpExpFn (z : Word) : Word :=
  if fpIsNaN z then fpNaN
  else if fpIsInf z then (if fpNeg? z then 0 else fpInf false)
  else if fpIsZero z then fpOne
  else
    let u := fpInt z
    if u > 128 * 2 ^ 149 then fpInf false
    else if u < -(128 * 2 ^ 149) then 0
    else fpRound false ((2 * (expFix u).toNat + 1) * 2 ^ 149) (2 ^ (fixBits + 1))

/-- TANH: (e^2z − 1) / (e^2z + 1). -/
def fpTanh (z : Word) : Word :=
  if fpIsNaN z then fpNaN
  else if fpIsZero z then z
  else
    let neg := fpNeg? z
    if fpIsInf z || fpMag z ≥ 64 * 2 ^ 149 then (if neg then 0xBF800000 else fpOne)
    else
      let v := (expFix (2 * (fpMag z : Int))).toNat
      fpRound neg ((v - 2 ^ fixBits) * 2 ^ 149) (v + 2 ^ fixBits)

/-- Binary exponentiation over the bits of k from the most significant down, with RNE (R178). -/
def fpPowFrom (b : Word) : List Bool → Word → Word
  | [], acc => acc
  | d :: r, acc =>
    let sq := fpMul acc acc
    fpPowFrom b r (if d then fpMul sq b else sq)

/-- The bits of k below its leading one, most significant first. -/
def bitsBelowTop (k : Nat) : List Bool := ((List.range (Nat.log2 k)).map fun i => k.testBit i).reverse

/-- b^k for k of 1 or more (R178). -/
def fpPow (b : Word) (k : Nat) : Word := fpPowFrom b (bitsBelowTop k) b

/-! ### Accumulator words (Table 06-2, R129, R130, R137) -/

/-- An accumulator word: v in the low half; in the high half the compensation term, or the saturation flag. -/
structure AccWord where
  v : Word
  c : Word
deriving DecidableEq, Repr

def accOf (d : DWord) : AccWord := ⟨d.truncate 32, (d >>> 32).truncate 32⟩
def accBits (w : AccWord) : DWord := w.c.zeroExtend 64 <<< 32 ||| w.v.zeroExtend 64

/-- R129, acc_add. -/
def accAdd (w : AccWord) (x : Word) : AccWord :=
  let t := fpAdd w.v x
  if !fpIsFinite t then ⟨t, 0⟩
  else
    let z := fpSub t w.v
    let e := fpAdd (fpSub w.v (fpSub t z)) (fpSub x z)
    ⟨t, fpAdd w.c e⟩

/-- R137, combine: `a` is the left operand. -/
def accCombine (a b : AccWord) : AccWord :=
  let t := fpAdd a.v b.v
  if !fpIsFinite t then ⟨t, 0⟩
  else
    let z := fpSub t a.v
    let e := fpAdd (fpSub a.v (fpSub t z)) (fpSub b.v z)
    ⟨t, fpAdd (fpAdd a.c b.c) e⟩

/-- The nearest INT32 bound of an integer, and whether it was outside (R58, R130). -/
def clampInt32 (s : Int) : Int × Bool :=
  if s > 2 ^ 31 - 1 then (2 ^ 31 - 1, true) else if s < -(2 ^ 31) then (-(2 ^ 31), true) else (s, false)

/-- R130, acc_add_int: the new word, and whether ACC_SAT_COUNT counts it. -/
def accAddInt (w : AccWord) (x : Int) (xSat : Bool) : AccWord × Bool :=
  let (s, n) := clampInt32 (w.v.toInt + x)
  let was := w.c.getLsbD 0
  (⟨BitVec.ofInt 32 s, if was || n || xSat then 1 else 0⟩, !was && (n || xSat))

/-- RNE(v + c), or v when v is not finite (Table 06-4, R181, R212, R289). -/
def accRead (w : AccWord) : Word := if fpIsFinite w.v then fpAdd w.v w.c else w.v

/-- R332: the residue of an accumulator word; 0xFF stands for 0. -/
def residue (d : DWord) : Nat := let r := d.toNat % 255; if r = 0 then 255 else r

/-- A reader's comparison of a word with its residue (R332). -/
def residueOk (d : DWord) (r : Byte) : Bool := r.toNat % 255 == residue d % 255

end Sys2Proof.Machine
end

