-- ==== Sys2Proof/Machine/Codes.lean ====
section
/-! DEFINITION. The operand codes and the carrier (R47 to R55), the conversions that leave the array (R57, R58), rounding into
narrow codes (R65, R66), requantization (R67), the scale record (R68 to R71, R407), ROTATE (R73) and smoothing (R75). -/

namespace Sys2Proof.Machine

/-! ### Codes -/

/-- The five operand codes of Table 03-1. -/
def Form.isCode : Form → Bool
  | .e4m3 | .e5m2 | .e2m1 | .int8 | .int4 => true
  | _ => false

def Form.isInt : Form → Bool
  | .int8 | .int4 => true
  | _ => false

def Form.isFloat : Form → Bool
  | .e4m3 | .e5m2 | .e2m1 => true
  | _ => false

/-- Width of an element in bits (Tables 03-1 and 11-7). -/
def Form.width : Form → Nat
  | .e4m3 | .e5m2 | .int8 => 8
  | .e2m1 | .int4 => 4
  | .fp32 | .int32 => 32
  | .wide => 64
  | .plane => 1

/-- The code that a scale record's format names (Table 03-5). -/
def formOfFormat : Nat → Form
  | 0 => .e4m3
  | 1 => .e5m2
  | 2 => .e2m1
  | 3 => .int8
  | _ => .int4

/-- Mantissa bits and bias of a float code (Table 03-1). -/
def Form.mant : Form → Nat
  | .e4m3 => 3
  | .e5m2 => 2
  | _ => 1

def Form.bias : Form → Nat
  | .e4m3 => 7
  | .e5m2 => 15
  | _ => 1

/-- The code's smallest step is 2^-stepExp: 2^-9, 2^-16, 2^-1, and 1 for the integer codes. -/
def Form.stepExp (f : Form) : Nat := if f.isFloat then f.bias + f.mant - 1 else 0

/-- Largest finite magnitude in steps: 448, 57,344 and 6; the integer codes' symmetric bound (R64). -/
def Form.maxSteps : Form → Nat
  | .e4m3 => 448 * 2 ^ 9
  | .e5m2 => 57344 * 2 ^ 16
  | .e2m1 => 12
  | .int8 => 127
  | _ => 7

/-- The magnitude M_f of R68, as FP32. -/
def Form.maxFp : Form → Word
  | .e4m3 => fpOfInt 448
  | .e5m2 => fpOfInt 57344
  | .e2m1 => fpOfInt 6
  | .int8 => fpOfInt 127
  | _ => fpOfInt 7

/-- A code as an element of its format: finite in steps, infinite, or NaN. -/
inductive CodeValue
  | finite (steps : Int)
  | inf (neg : Bool)
  | nan
deriving DecidableEq, Repr

def signedNat (neg : Bool) (m : Nat) : Int := if neg then -(m : Int) else m

/-- The value of a code (Table 03-1), in the code's steps. -/
def codeValue (f : Form) (code : Nat) : CodeValue :=
  match f with
  | .int8 => .finite (BitVec.ofNat 8 code).toInt
  | .int4 => .finite (BitVec.ofNat 4 code).toInt
  | f =>
    let neg := code.testBit (f.width - 1)
    let m := code % 2 ^ (f.width - 1)
    let e := m / 2 ^ f.mant
    let fr := m % 2 ^ f.mant
    if f = .e4m3 && m = 0x7F then .nan
    else if f = .e5m2 && m = 0x7C then .inf neg
    else if f = .e5m2 && m > 0x7C then .nan
    else if e = 0 then .finite (signedNat neg fr)
    else .finite (signedNat neg ((2 ^ f.mant + fr) * 2 ^ (e - 1)))

/-- A code as FP32, exact (R145). -/
def codeFp (f : Form) (code : Nat) : Word :=
  match codeValue f code with
  | .finite v => fpScaled (v < 0) v.natAbs (-(f.stepExp : Int))
  | .inf n => fpInf n
  | .nan => fpNaN

/-! ### The carrier (R49, R50) -/

/-- The carrier of ±mag × 2^-e, mag of at most 8 significant bits. -/
def carrierOf (neg : Bool) (mag e : Nat) : BitVec 14 :=
  if mag = 0 then 0
  else
    let k := Nat.log2 mag
    let frac := if k ≤ 7 then mag * 2 ^ (7 - k) else mag / 2 ^ (k - 7)
    BitVec.ofNat 14 ((if neg then 2 ^ 13 else 0) + (31 + k - e) * 128 + frac % 128)

/-- The feeder's expansion of a code (R50). -/
def expand (f : Form) (code : Nat) : BitVec 14 :=
  match codeValue f code with
  | .finite v => carrierOf (v < 0) v.natAbs f.stepExp
  | .inf n => if n then 0x3F80 else 0x1F80
  | .nan => 0x1FC0

/-- The feeder's expansion of an activation with its zero point subtracted (R62, R53, PROLOGUE mode); the zero point of a float code is 0. -/
def expandZp (f : Form) (code : Nat) (z : Int) : BitVec 14 :=
  match codeValue f code with
  | .finite v => carrierOf (v - z < 0) (v - z).natAbs f.stepExp
  | .inf n => if n then 0x3F80 else 0x1F80
  | .nan => 0x1FC0

def carrierField (c : BitVec 14) : Nat := c.toNat / 128 % 64
def carrierFrac (c : BitVec 14) : Nat := c.toNat % 128
def carrierNeg (c : BitVec 14) : Bool := c.getLsbD 13
def carrierIsNaN (c : BitVec 14) : Bool := carrierField c == 63 && carrierFrac c != 0
def carrierIsInf (c : BitVec 14) : Bool := carrierField c == 63 && carrierFrac c == 0
def carrierSpecial (c : BitVec 14) : Bool := carrierField c == 63

/-- A finite carrier in units of 2^-e (exact where e is at least the operand's step exponent); a special one counts as zero
(R54). -/
def carrierInt (c : BitVec 14) (e : Nat) : Int :=
  if carrierField c = 0 || carrierSpecial c then 0
  else signedNat (carrierNeg c) ((128 + carrierFrac c) * 2 ^ (carrierField c + e) / 2 ^ 38)

/-- SHIFT and LEAKY (R140): a carrier times 2^k. Zero and special carriers stay as they are. -/
def carrierShift (c : BitVec 14) (k : Int) : BitVec 14 :=
  if carrierField c = 0 || carrierSpecial c then c
  else BitVec.ofNat 14 ((if carrierNeg c then 2 ^ 13 else 0) + ((carrierField c : Int) + k).toNat * 128 + carrierFrac c)

/-- A carrier with its sign changed. -/
def carrierNegate (c : BitVec 14) : BitVec 14 := if carrierField c = 0 then c else c ^^^ 0x2000

/-! ### Pairs (Tables 03-3 and 03-4) -/

/-- R51: a float code pairs with a float code, an integer code with an integer code. -/
def pairAllowed (a w : Form) : Bool := (a.isFloat && w.isFloat) || (a.isInt && w.isInt)

/-- Bits of the largest product of a MAC pair: the Product bits column of Table 03-3. -/
def productBits (a w : Form) : Nat :=
  match a, w with
  | .e4m3, .e4m3 => 36
  | .e4m3, .e5m2 => 50
  | .e5m2, .e4m3 => 50
  | .e5m2, .e5m2 => 64
  | .e2m1, .e4m3 => 22
  | .e4m3, .e2m1 => 22
  | .e2m1, .e5m2 => 36
  | .e5m2, .e2m1 => 36
  | .e2m1, .e2m1 => 8
  | .int8, .int8 => 15
  | .int8, .int4 => 11
  | .int4, .int8 => 11
  | _, _ => 7

/-- Guard bits of SQDIST and L1DIST (Table 03-4). -/
def sqGuard : Form → Nat
  | .e4m3 => 41
  | .e5m2 => 13
  | .e2m1 => 69
  | .int8 => 63
  | _ => 71

def l1Guard : Form → Nat
  | .e4m3 => 60
  | .e5m2 => 46
  | .e2m1 => 75
  | .int8 => 70
  | _ => 74

/-- Guard bits of a chain, before the narrowing of R141. MAXPLUS and MINPLUS do not grow: none limits their depth. -/
def guardBits (m : Mode) (a w : Form) : Nat :=
  match m with
  | .mac => 79 - productBits a w
  | .sqdist => sqGuard a
  | .l1dist => l1Guard a
  | _ => 79

/-- Double-rate pairs (R51, R53): both codes 4-bit of one kind, in MAC mode. -/
def doubleRate (m : Mode) (a w : Form) : Bool := m == .mac && a.width == 4 && w.width == 4 && a == w

/-- The exponent of the LSB of a chain (Tables 03-3, 03-4; R141 moves it by s): the LSB is 2^-lsbExp. -/
def lsbExp (m : Mode) (a w : Form) (s : Nat) : Nat :=
  match m with
  | .mac => a.stepExp + w.stepExp + s
  | .sqdist => 2 * (a.stepExp + s)
  | _ => a.stepExp + s

/-! ### Leaving the array (R57, R58, R81) -/

/-- Table 04-3 tags. -/
abbrev Tag := BitVec 2

def tagFinite : Tag := 0
def tagPosInf : Tag := 1
def tagNegInf : Tag := 2
def tagNaN : Tag := 3

/-- R54: infinities of one sign stay, both signs or a NaN give NaN. -/
def tagJoin (a b : Tag) : Tag := a ||| b

/-- Conversion of a float pair's column sum to FP32. -/
def convertFloat (m : Mode) (lsb : Nat) (sum : BitVec 80) (tag : Tag) : Word :=
  if tag = tagNaN then fpNaN
  else if tag = tagPosInf then fpInf false
  else if tag = tagNegInf then fpInf true
  else
    let v := sum.toInt
    if m = .maxplus && v = -(2 ^ 79) then fpInf true
    else if m = .minplus && v = 2 ^ 79 - 1 then fpInf false
    else fpScaled (v < 0) v.natAbs (-(lsb : Int))

/-- Conversion of an integer pair's column sum to INT32 with its saturation flag. The sum is in units of 2^-s (R141); how a sum that is no
integer rounds is open: the integer below it or the one above, a free value (log 121). -/
def convertInt (s : Nat) (sum : BitVec 80) : Int × Bool :=
  let lo := sum.toInt / (2 ^ s : Nat)
  clampInt32 (if sum.toInt % (2 ^ s : Nat) ≠ 0 && Config.roundsUp sum s then lo + 1 else lo)

/-! ### Rounding into narrow codes (R65, R66) -/

/-- The outcome of one quantization. -/
structure Quant where
  code : Nat
  flushed : Bool
  saturated : Bool
  nonfinite : Bool
deriving DecidableEq, Repr

/-- A magnitude in units of 2^-149, rounded to the grid of a float code with ties away from zero, in steps of the code. -/
def gridSteps (f : Form) (mag : Nat) : Nat :=
  let unit := 2 ^ (149 - f.stepExp)          -- one step in units of 2^-149
  let top := Nat.log2 f.maxSteps - f.mant    -- log2 of the top binade's spacing in steps
  let k := Nat.min (Nat.log2 (mag / unit) - f.mant) top
  rnaDiv mag (unit * 2 ^ k) * 2 ^ k

/-- The code of a magnitude given in steps. -/
def stepsCode (f : Form) (neg : Bool) (n : Nat) : Nat :=
  let k := Nat.log2 n - f.mant
  (if neg && n != 0 then 2 ^ (f.width - 1) else 0) + k * 2 ^ f.mant + n / 2 ^ k

/-- The bounds of an integer code: full range for an activation, symmetric otherwise (R64). -/
def intBounds (f : Form) (activation : Bool) : Int × Int :=
  let m : Int := f.maxSteps
  (if activation then -m - 1 else -m, m)

/-- The code of an integer. -/
def intCode (f : Form) (v : Int) : Nat := (v % (2 ^ f.width : Nat)).toNat

/-- R66. DESIGN CHOICE (log 118): a NaN that is written as code 0 does not count as flushed. -/
def quantNonfinite (f : Form) (activation : Bool) (x : Word) : Quant :=
  let bounds := intBounds f activation
  let bound : Nat := if f.isInt then intCode f (if fpNeg? x then bounds.1 else bounds.2) else stepsCode f (fpNeg? x) f.maxSteps
  if fpIsNaN x then ⟨if f = .e4m3 || f = .e5m2 then 0x7F else 0, false, false, true⟩
  else if f = .e5m2 then ⟨if fpNeg? x then 0xFC else 0x7C, false, false, true⟩
  else ⟨bound, false, true, true⟩

/-- R65: quantization of `x` with reciprocal scale `rs`; `z` is the zero point of an activation, 0 otherwise. DEDUCED (log 7):
step 2 adds the zero point without rounding, since only step 1 names one. -/
def quantize (f : Form) (activation : Bool) (z : Int) (rs x : Word) : Quant :=
  if !fpIsFinite x then quantNonfinite f activation x
  else
    let v := fpMul x rs
    if f.isInt then
      let (lo, hi) := intBounds f activation
      let w := if fpIsInf v then signedNat (fpNeg? v) (2 ^ 190) else fpInt v + (if activation then z else 0) * 2 ^ 149
      let i := signedNat (w < 0) (rnaDiv w.natAbs (2 ^ 149))
      let c := if i > hi then hi else if i < lo then lo else i
      ⟨intCode f c, !fpIsZero x && c == (if activation then z else 0), c != i, false⟩
    else
      let r := if fpIsInf v then 2 * f.maxSteps else gridSteps f (fpMag v)
      let c := Nat.min r f.maxSteps
      ⟨stepsCode f (fpNeg? v) c, !fpIsZero x && c == 0, r > f.maxSteps, false⟩

/-- R67: the requantized value, whether it was flushed and whether it was clamped. DESIGN CHOICE (log 119): a quotient beyond 64 bits keeps its
exact value until it is clamped. -/
def requant (f : Form) (activation : Bool) (acc : Int) (m sh : Nat) (z : Int) : Quant :=
  let p := acc * (m : Int)
  let r : Int := rnaDiv p.natAbs (2 ^ sh)
  let q := (if p ≥ 0 then r else -r) + z
  let (lo, hi) := intBounds f activation
  let c := if q > hi then hi else if q < lo then lo else q
  ⟨intCode f c, c == z && acc != 0, c != q, false⟩

/-! ### Scale records (Table 03-5) -/

def fpTwoPow (k : Int) : Word := fpScaled false 1 k

/-- The lower and upper bound of a scale: 2^-126 and 2^126 (R69). -/
def scaleMin : Word := 0x00800000
def scaleMax : Word := 0x7E800000

/-- The validity checks of R68, less the width check. DESIGN CHOICE (log 120): an `auto` other than 0 and 1 is accepted and acts as 0. -/
def scaleRecOk (r : List Byte) : Bool :=
  let init := w32 r 0x48
  let margin := (BitVec.ofNat 8 (u8 r 0x4E)).toInt
  u8 r 0x4C ≤ 15 && u8 r 0x4D ≤ 16 && (-8 ≤ margin && margin ≤ 8) && u8 r 0x74 != 0 && u8 r 0x4F ≤ 4
    && zeroRange r 0x77 9 && fpIsFinite init && fpLe scaleMin init && fpLe init scaleMax
    && !(u8 r 0x75 == 1 && u8 r 0x4F > 1)

/-- Replaces a field of a record. -/
def setField (bs : List Byte) (off n v : Nat) : List Byte := bs.take off ++ leBytes n v ++ bs.drop (off + n)

/-- The largest amax of the valid entries: the `count` entries before `head`. -/
def scaleAmax (r : List Byte) : Word :=
  ((List.range (u8 r 0x4D)).map fun i => w32 r (4 * ((u8 r 0x4C + 31 - i) % 16))).foldl fpMax 0

/-- The scale of R69 for a code, before the clamp. -/
def scaleRaw (r : List Byte) (f : Form) : Word :=
  let a := scaleAmax r
  let margin := (BitVec.ofNat 8 (u8 r 0x4E)).toInt
  if fpIsZero a then w32 r 0x48 else fpMul (fpDiv a f.maxFp) (fpTwoPow margin)

/-- The clamp of R69. -/
def scaleClamp (s : Word) : Word := if fpLt s scaleMin then scaleMin else if fpLt scaleMax s then scaleMax else s

/-- R71. The products are 64-bit (DEDUCED, log 122: one beyond 64 bits wraps). -/
def chooseFormat (r : List Byte) : List Byte :=
  let ppmN := u32 r 0x70 * u64 r 0x50 % 2 ^ 64
  if u8 r 0x4F = 1 then
    let clean := if u32 r 0x64 * 1000000 ≤ ppmN && u32 r 0x60 = 0 then u8 r 0x76 + 1 else 0
    if clean ≥ u8 r 0x74 then setField (setField r 0x4F 1 0) 0x76 1 0 else setField r 0x76 1 clean
  else if u8 r 0x4F = 0 then
    if u32 r 0x58 * 1000000 > ppmN || u32 r 0x5C > 0 || u32 r 0x60 > 0 then setField (setField r 0x4F 1 1) 0x76 1 0 else r
  else r

/-- R69: the record after the issue of a producing command of step `t`, and whether the scale was clamped (event 0x0321). -/
def scaleIssue (r : List Byte) (t : Word) : List Byte × Bool :=
  if w32 r 0x6C = t then (r, false)
  else
    let r1 := if u8 r 0x75 = 1 && w32 r 0x68 = t - 1 then chooseFormat r else r
    let s := scaleRaw r1 (formOfFormat (u8 r1 0x4F))
    let c := scaleClamp s
    (setField (setField (setField r1 0x40 4 c.toNat) 0x44 4 (fpDiv fpOne c).toNat) 0x6C 4 t.toNat, c != s)

def satAdd (w a b : Nat) : Nat := Nat.min (a + b) (2 ^ w - 1)

/-- R70: the record after a command of step `t` folds its statistics. -/
def scaleFold (r : List Byte) (t : Word) (p : Stats) : List Byte :=
  if w32 r 0x68 ≠ t then
    let h := u8 r 0x4C
    let r := setField r (4 * h) 4 p.amax.toNat
    let r := setField r 0x4C 1 ((h + 1) % 16)
    let r := setField r 0x4D 1 (Nat.min (u8 r 0x4D + 1) 16)
    let r := setField r 0x50 8 (satAdd 64 0 p.elements)
    let r := setField r 0x58 4 (satAdd 32 0 p.flushed)
    let r := setField r 0x5C 4 (satAdd 32 0 p.saturated)
    let r := setField r 0x60 4 (satAdd 32 0 p.nonfinite)
    let r := setField r 0x64 4 (satAdd 32 0 p.below)
    setField r 0x68 4 t.toNat
  else
    let i := (u8 r 0x4C + 15) % 16
    let r := setField r (4 * i) 4 (fpMax (w32 r (4 * i)) p.amax).toNat
    let r := setField r 0x50 8 (satAdd 64 (u64 r 0x50) p.elements)
    let r := setField r 0x58 4 (satAdd 32 (u32 r 0x58) p.flushed)
    let r := setField r 0x5C 4 (satAdd 32 (u32 r 0x5C) p.saturated)
    let r := setField r 0x60 4 (satAdd 32 (u32 r 0x60) p.nonfinite)
    setField r 0x64 4 (satAdd 32 (u32 r 0x64) p.below)

def Stats.zero : Stats := ⟨0, 0, 0, 0, 0, 0⟩

/-- Combination of partial statistics (R70): maximum and integer addition. -/
def Stats.join (a b : Stats) : Stats :=
  ⟨fpMax a.amax b.amax, a.elements + b.elements, a.flushed + b.flushed, a.saturated + b.saturated,
    a.nonfinite + b.nonfinite, a.below + b.below⟩

def boolNat (b : Bool) : Nat := if b then 1 else 0

/-- The statistics of one quantized element; `below` is the reciprocal of the scale that E4M3 would use (R71). -/
def Stats.count (s : Stats) (x : Word) (q : Quant) (belowRs : Word) : Stats :=
  let a := if fpIsFinite x then fpAbs x else 0
  let b := fpIsFinite x && !fpIsZero x && (quantize .e4m3 false 0 belowRs x).code % 128 == 0
  ⟨fpMax s.amax a, s.elements + 1, s.flushed + boolNat q.flushed, s.saturated + boolNat q.saturated,
    s.nonfinite + boolNat q.nonfinite, s.below + boolNat b⟩

/-- The reciprocal of the scale that E4M3 would use on a record's history (R71). -/
def belowRscale (r : List Byte) : Word := fpDiv fpOne (scaleClamp (scaleRaw r .e4m3))

/-! ### ROTATE (R73) and smoothing (R75) -/

/-- One butterfly stage over 64 elements. -/
def butterfly (k : Nat) (x : List Word) : List Word :=
  (List.range x.length).map fun i =>
    let j := i ^^^ 2 ^ k
    if i.testBit k then fpSub (x.getD j 0) (x.getD i 0) else fpAdd (x.getD i 0) (x.getD j 0)

/-- H64/8 on a group of 64 elements. -/
def rotate64 (x : List Word) : List Word :=
  (((List.range 6).foldl (fun v k => butterfly k v) x)).map fun v => fpMul v 0x3E000000

/-- L128 of R75. -/
def l128 (x : Word) : Int :=
  let y := if fpExp x = 0 then scaleMin else x
  128 * ((fpExp y : Int) - 127) + (fpFrac y / 2 ^ 16 : Nat)

/-- d / 1024 rounded half away from zero. -/
def rnd1024 (d : Int) : Int := let r : Int := rnaDiv d.natAbs 1024; if d < 0 then -r else r

/-- The smoothing exponent of a channel (R75). -/
def smoothExp (alpha8 : Nat) (ax aw : Word) : Int :=
  if fpIsZero ax || fpIsZero aw || !fpIsFinite ax || !fpIsFinite aw then 0
  else
    let e := rnd1024 ((alpha8 : Int) * l128 ax - (8 - (alpha8 : Int)) * l128 aw)
    if e > 16 then 16 else if e < -16 then -16 else e

end Sys2Proof.Machine
end

