-- ==== Sys2Proof/Machine/Ops.lean ====
section
/-! DEFINITION. The named operations over the state that several commands share: units and counters, reports (R404), the cut,
tile-port requests (R359 to R366), service outputs (R341) and interrupts (R380). -/

namespace Sys2Proof.Machine

/-! ### Replicated units -/

def vset {α : Type} {n : Nat} (v : Vector α n) (i : Fin n) (x : α) : Vector α n := v.set i.val x i.isLt
def vmod {α : Type} {n : Nat} (v : Vector α n) (i : Fin n) (f : α → α) : Vector α n := v.set i.val (f v[i]) i.isLt

def State.modCore (s : State) (c : Fin 32) (f : Core → Core) : State := { s with cores := vmod s.cores c f }
def State.modFacet (s : State) (g : Fin 128) (f : Facet → Facet) : State := { s with facets := vmod s.facets g f }
def State.modPort (s : State) (p : Fin 32) (f : TilePort → TilePort) : State := { s with tilePorts := vmod s.tilePorts p f }
def State.modRing (s : State) (p : Fin 4) (f : RingPort → RingPort) : State := { s with ringPorts := vmod s.ringPorts p f }
def State.modChan (s : State) (k : Fin 4) (f : Channel → Channel) : State := { s with channels := vmod s.channels k f }
def State.modPair (s : State) (i : Fin 8) (f : Pair → Pair) : State := { s with pairs := vmod s.pairs i f }
def State.modClient (s : State) (n : Fin 256) (f : Client → Client) : State := { s with clients := vmod s.clients n f }
def State.modJob (s : State) (n : Fin 32) (f : Job → Job) : State := { s with jobs := vmod s.jobs n (Option.map f) }
def State.modBoot (s : State) (f : Boot → Boot) : State := { s with mgmt := { s.mgmt with boot := f s.mgmt.boot } }
def State.modPins (s : State) (f : Pins → Pins) : State := { s with mgmt := { s.mgmt with pins := f s.mgmt.pins } }
def State.modBeat (s : State) (f : Beat → Beat) : State := { s with mgmt := { s.mgmt with beat := f s.mgmt.beat } }

/-- Global facet index g = 4c + f (R8). -/
def facetIx (c : Fin 32) (f : Fin 4) : Fin 128 := ⟨4 * c.val + f.val, by omega⟩
def facetCore (g : Fin 128) : Fin 32 := ⟨g.val / 4, by omega⟩
def facetSub (g : Fin 128) : Fin 4 := ⟨g.val % 4, by omega⟩

/-- The pair that governs a core: its stripe (R17). -/
def stripeOf (c : Fin 32) : Fin 8 := ⟨c.val % 8, by omega⟩

/-- A counter of R386. -/
def satInc (w : Word) : Word := if w = 0xFFFFFFFF then w else w + 1
def satAddW (w : Word) (n : Nat) : Word := BitVec.ofNat 32 (Nat.min (w.toNat + n) 0xFFFFFFFF)
def satIncH (w : Half) : Half := if w = 0xFFFF then w else w + 1

/-- The block takes commands: not held in cold reset (R352), in functional mode (R383), and not left by a scan with state that nothing tells (log 111). -/
def State.functional (s : State) : Bool := s.mgmt.pins.coldN && s.mgmt.pins.wrapper == .bypass && !s.mgmt.pins.scanned

/-- The block is READY and does its work. -/
def State.ready (s : State) : Bool := s.functional && s.mgmt.boot.cutState == .ready && !s.mgmt.boot.stopped

def allCores : List (Fin 32) := List.finRange 32
def allFacets : List (Fin 128) := List.finRange 128
def allPairs : List (Fin 8) := List.finRange 8

/-! ### The cut (Tables 02-3 to 02-5) -/

/-- Facet g is absent from the grade as narrowed (R38, R39). -/
def State.facetDisabled (s : State) (g : Fin 128) : Bool := s.mgmt.rwl.facetDisable.getLsbD g.val
def State.facetFenced (s : State) (g : Fin 128) : Bool := s.mgmt.fence.getLsbD g.val

/-- In service: neither disabled nor fenced, once a cut is applied. -/
def State.facetUp (s : State) (g : Fin 128) : Bool :=
  s.mgmt.cut.isApplied && !s.facetDisabled g && !s.facetFenced g

/-- The facets of a core in service, ascending (R101). -/
def State.coreFacets (s : State) (c : Fin 32) : List (Fin 4) := (List.finRange 4).filter fun f => s.facetUp (facetIx c f)

/-- A core that can compute: in service with at least one facet (R12, R19). -/
def State.coreArmed (s : State) (c : Fin 32) : Bool := s.cores[c].inService && !(s.coreFacets c).isEmpty

def State.st (s : State) (off n : Nat) : Nat := field s.mgmt.cut.structureBytes off n
def State.slotSplit (s : State) (cls : Nat) : Nat := s.st (0x18 + cls) 1
def State.wrespReserve (s : State) : Nat := s.st 0x1E 1
def State.ringEscape (s : State) : Nat := s.st 0x1D 1
def State.beatPeriod (s : State) : Nat := s.st 0x12 2

/-- Ring A is ring 0, ring B ring 1. -/
def State.ringMembers (s : State) (r : Nat) : Nat := s.st (0x248 + 4 * r) 1
def State.ringPos (s : State) (r : Nat) : Nat := s.st (0x249 + 4 * r) 1
def State.ringNext (s : State) (r : Nat) : Fin 4 := ⟨s.st (0x24A + 4 * r) 1 % 4, by omega⟩
def State.ringPrev (s : State) (r : Nat) : Fin 4 := ⟨s.st (0x24B + 4 * r) 1 % 4, by omega⟩
def State.ringOrder (s : State) (r i : Nat) : Nat := s.st (0x250 + 256 * r + 2 * i) 2

/-- A port that a ring with more than one member uses: its ring (0 A, 1 B) and whether it is that ring's next_port. -/
def State.portRole (s : State) (p : Fin 4) : Option (Nat × Bool) :=
  if !s.mgmt.cut.isApplied then none
  else if s.ringMembers 0 > 1 && s.ringNext 0 = p then some (0, true)
  else if s.ringMembers 0 > 1 && s.ringPrev 0 = p then some (0, false)
  else if s.ringMembers 1 > 1 && s.ringNext 1 = p then some (1, true)
  else if s.ringMembers 1 > 1 && s.ringPrev 1 = p then some (1, false)
  else none

/-- Channel k belongs to ring k / 2; an even one is -fwd, with d = +1 (Table 09-1). -/
def chanRing (k : Fin 4) : Nat := k.val / 2
def chanFwd (k : Fin 4) : Bool := k.val % 2 == 0
def State.chanSend (s : State) (k : Fin 4) : Fin 4 := if chanFwd k then s.ringNext (chanRing k) else s.ringPrev (chanRing k)
def State.chanRecv (s : State) (k : Fin 4) : Fin 4 := if chanFwd k then s.ringPrev (chanRing k) else s.ringNext (chanRing k)

/-- The channels of a ring that sends and receives through port p. -/
def State.chanOn (s : State) (p : Fin 4) (sends : Bool) : Option (Fin 4) :=
  match s.portRole p with
  | none => none
  | some (r, next) => some ⟨(2 * r + if next == sends then 0 else 1) % 4, by omega⟩

/-- Masks heard within the last 8 beats (R374). -/
def RingPort.recent (p : RingPort) (now : DWord) : List (BitVec 128 × DWord) := p.heard.filter fun h => now ≤ h.2 + 8

def orMasks (l : List (BitVec 128 × DWord)) : BitVec 128 := l.foldl (fun m h => m ||| h.1) 0

/-- The down mask of ring r at this block (R374): its own bit while a port of the ring is down, and the masks it has heard. -/
def State.ringMask (s : State) (r : Nat) : BitVec 128 :=
  let a := s.ringPorts[s.ringNext r]
  let b := s.ringPorts[s.ringPrev r]
  let own : BitVec 128 := if a.state == .up && b.state == .up then 0 else 1 <<< s.ringPos r
  own ||| orMasks (a.recent s.mgmt.beat.observed) ||| orMasks (b.recent s.mgmt.beat.observed)

/-- R374: whether ring r is up at this block. -/
def State.ringUp (s : State) (r : Nat) : Bool := s.mgmt.cut.isApplied && (s.ringMembers r = 1 || s.ringMask r == 0)

/-- First slot of a class: slots are numbered in class order (R252). -/
def State.classBase (s : State) (cls : Nat) : Nat := ((List.range cls).map s.slotSplit).sum

/-- The class of a slot. -/
def State.slotClass (s : State) (i : Nat) : Nat :=
  if i < s.classBase 1 then 0 else if i < s.classBase 2 then 1 else if i < s.classBase 3 then 2 else 3

/-- Handle of a slot (R252). -/
def State.handleOf (s : State) (c : Fin 32) (i : Fin 64) : BitVec 16 :=
  BitVec.ofNat 16 (i.val + 64 * c.val + 2048 * s.slotClass i.val)

def handleSlot (h : BitVec 16) : Fin 64 := ⟨h.toNat % 64, by omega⟩
def handleCore (h : BitVec 16) : Fin 32 := ⟨h.toNat / 64 % 32, by omega⟩
def handleClass (h : BitVec 16) : Nat := h.toNat / 2048 % 4

/-! ### Jobs -/

def State.job (s : State) (n : Fin 32) : Option Job := s.jobs[n]

/-- The running job. -/
def State.running (s : State) : Option (Fin 32 × Job) :=
  match s.sched.run with
  | none => none
  | some n => (s.jobs[n]).map fun j => (n, j)

def State.beatNow (s : State) : DWord := s.mgmt.beat.observed

/-- R7, R376: a beat is reached at the first CCLK at which the observed beat is at or above it. -/
def State.reached (s : State) (b : DWord) : Bool := b ≤ s.mgmt.beat.observed

/-- Which class J field is in force for a job (R308): the job's override where its mask bit is set, else the cut's default. -/
def State.classJ (s : State) (j : JobDesc) (maskBit off n : Nat) : Nat :=
  if j.overrideMask.getLsbD maskBit then field j.overrides off n else field s.mgmt.cut.jobDefaults off n

/-! ### Runs of errors (Table 14-3) -/

/-- The runs of a unit after an event with errors at these places: each a place and how many events in a row had an error there. -/
def runsNext (old : List (Nat × Nat)) (hits : List Nat) : List (Nat × Nat) :=
  hits.eraseDups.map fun x => (x, ((old.find? fun y => y.1 = x).map (·.2)).getD 0 + 1)

/-- A run has reached three: the fault is permanent. -/
def permanent (l : List (Nat × Nat)) : Bool := l.any fun x => 3 ≤ x.2

/-- One more in a run of the same place, or a new run. -/
def runNext (r : Option (Nat × Nat)) (x : Nat) : Nat × Nat := match r with | some (y, k) => if y = x then (x, k + 1) else (x, 1) | none => (x, 1)

/-! ### Reports (R404) -/

def planWord (r : CmdRef) : Word := BitVec.ofNat 32 r.plan

/-- A report stamped with the observed beat and the running job. -/
def State.report (s : State) (code : Half) (fault : Bool) (scope : Scope) (uk : UnitKind) (ui : Nat)
    (plan label detail : Word) : Report where
  code := code
  fault := fault
  scope := scope
  svc := false
  service := false
  beat := s.beatNow
  planIndex := plan
  label := label
  unitKind := uk
  unitIndex := ui
  job := s.sched.run.map (·.val)
  client := match s.running with | some (_, j) => BitVec.ofNat 8 j.client.val | none => 0
  detail := detail

/-- A report arrives at the queue of 64 entries, 16 of them kept for faults (R404). -/
def Log.enter (l : Log) (r : Report) : Log :=
  if r.fault then
    if l.queue.length < 64 && l.held.isEmpty then { l with queue := l.queue ++ [r] } else { l with held := l.held ++ [r] }
  else if l.queue.length < 48 then { l with queue := l.queue ++ [r] }
  else { l with dropped := l.dropped + 1 }

def State.enter (s : State) (r : Report) : State := { s with log := s.log.enter r }

/-- Whether a fault reported now would have to wait for an entry (R404). -/
def State.queueFull (s : State) : Bool := !(s.log.queue.length < 64 && s.log.held.isEmpty)

/-- An event that concerns no command. -/
def State.event (s : State) (code : Half) (uk : UnitKind) (ui : Nat) (detail : Word) : State :=
  s.enter (s.report code false .none uk ui 0xFFFFFFFF 0 detail)

/-- The plan index and the label of the command that a report concerns (Table 17-3). -/
def planOf (f : Option InFlight) : Word := match f with | some f => planWord f.ref | none => 0xFFFFFFFF
def labelOf (f : Option InFlight) : Word := match f with | some f => f.label | none => 0

/-- An event of a unit, with the command that it concerns where there is one. -/
def State.unitEvent (s : State) (code : Half) (uk : UnitKind) (ui : Nat) (f : Option InFlight) (detail : Word) : State :=
  s.enter (s.report code false .none uk ui (planOf f) (labelOf f) detail)

/-- The place of a unit among those that report in one CCLK (R404): its kind in the order of Table 17-3, then its index. -/
def UnitKind.code : UnitKind → Nat
  | .block => 0 | .core => 1 | .facet => 2 | .ringPort => 3 | .tilePort => 4 | .seqPair => 5 | .mgmt => 6 | .channel => 7 | .client => 8

def Report.unitBefore (a b : Report) : Bool :=
  a.unitKind.code < b.unitKind.code || (a.unitKind.code == b.unitKind.code && a.unitIndex < b.unitIndex)

def insertReport (r : Report) : List Report → List Report
  | [] => [r]
  | x :: l => if r.unitBefore x then r :: x :: l else x :: insertReport r l

/-- Reports in ascending unit kind and index; those of one unit keep their order. -/
def sortReports (l : List Report) : List Report := l.foldl (fun acc r => insertReport r acc) []

/-- R404: the reports that have entered the queue since `before` did so in one CCLK; they stand in ascending unit kind and index, the faults that are
held behind those in the queue. -/
def Log.inOrder (before l : Log) : Log :=
  { l with queue := l.queue.take before.queue.length ++ sortReports (l.queue.drop before.queue.length)
           held := l.held.take before.held.length ++ sortReports (l.held.drop before.held.length) }

def State.reportsInOrder (s before : State) : State := { s with log := before.log.inOrder s.log }

/-- An event that concerns a command. -/
def State.cmdEvent (s : State) (code : Half) (uk : UnitKind) (ui : Nat) (f : InFlight) (detail : Word) : State :=
  s.enter (s.report code false .none uk ui (planWord f.ref) f.label detail)

/-- Whether a unit of the given kind and index holds a fault report and has stopped its own work (R404). -/
def State.unitHeld (s : State) (uk : UnitKind) (ui : Nat) : Bool := s.log.held.any fun r => r.unitKind == uk && r.unitIndex == ui

/-- A fault that ends the job waits for the queue (R404). -/
def State.jobHeld (s : State) (n : Fin 32) : Bool := s.log.held.any fun r => r.scope == .job && r.job == some n.val

/-- The lead pair (R18). -/
def State.leadIx (s : State) : Nat := s.mgmt.lead.pair.toNat

/-! ### Interrupts and service outputs (R341, R380) -/

def State.raiseIrq (s : State) (bitNo : Nat) : State :=
  { s with mgmt := { s.mgmt with irqStatus := s.mgmt.irqStatus ||| (1 <<< bitNo) } }

/-- Any unit of Table 14-3 is out of service. -/
def State.unitOut (s : State) : Bool :=
  s.mgmt.fence != 0 || s.mgmt.boot.stopped || (s.pairs.toList.any (·.lost))
    || (s.ringPorts.toList.any fun p => p.state == .outOfService)
    || (s.cores.toList.any fun c => c.slots.toList.any (·.retired))

/-- A ring port is down because of its link: it was up since the last reset (R341). -/
def State.linkOut (s : State) : Bool :=
  s.ringPorts.toList.any fun p => p.everUp && (p.state == .down || p.state == .training)

/-- A unit leaves service by a permanent fault: both outputs rise (R341); the report is marked where it changes one. IRQ_STATUS.service rises with the
record, or at once where the queue drops the event (R393, R404, R405). -/
def State.leaveService (s : State) (r : Report) : State :=
  let changed := !(s.mgmt.pins.svcDegraded && s.mgmt.pins.svcReplace)
  let s1 := (s.modPins fun p => { p with svcDegraded := true, svcReplace := true }).enter { r with svc := changed, service := true }
  if s1.log.dropped = s.log.dropped then s1 else s1.raiseIrq 17

/-! ### Tile-port requests -/

/-- R33: the affinity window that holds an address, else the interleave. Before a cut is applied, T0 (R30). -/
def State.portOf (s : State) (a : Nat) : Fin 32 :=
  if !s.mgmt.cut.isApplied then 0
  else
    let hit := (List.range 32).find? fun i =>
      let o := 0x40 + 16 * i
      s.st (o + 13) 1 = 1 && s.st o 8 ≤ a && a < s.st o 8 + s.st (o + 8) 4 * 2 ^ 30
    match hit with
    | some i => ⟨s.st (0x40 + 16 * i + 12) 1 % 32, by omega⟩
    | none => ⟨s.st (0x20 + a / 2 ^ s.st 0x14 1 % 32) 1 % 32, by omega⟩

/-- A window of the job holds the address. -/
def Window.holds (w : Window) (far : Bool) (a : Nat) : Bool := w.far == far && w.base ≤ a && a < w.base + w.size

/-- R234: the range lies inside windows of the tier (RW ones for a write), once split at the windows' boundaries. -/
def windowsCover (ws : List Window) (far rw : Bool) : Nat → Nat → Nat → Bool
  | 0, a, e => a ≥ e
  | fuel + 1, a, e =>
    if a ≥ e then true
    else
      let ends := (ws.filter fun w => w.holds far a && (!rw || w.rw)).map fun w => w.base + w.size
      if ends.isEmpty then false else windowsCover ws far rw fuel (ends.foldl Nat.max 0) e

def JobDesc.mayRead (d : JobDesc) (far : Bool) (a n : Nat) : Bool := windowsCover d.windows far false (d.windows.length + 1) a (a + n)
def JobDesc.mayWrite (d : JobDesc) (far : Bool) (a n : Nat) : Bool := windowsCover d.windows far true (d.windows.length + 1) a (a + n)

/-- The address of the first request of a range that no window takes. -/
def windowsEnd (ws : List Window) (far rw : Bool) : Nat → Nat → Nat → Nat
  | 0, a, _ => a
  | fuel + 1, a, e =>
    if a ≥ e then a
    else
      let ends := (ws.filter fun w => w.holds far a && (!rw || w.rw)).map fun w => w.base + w.size
      if ends.isEmpty then a else windowsEnd ws far rw fuel (ends.foldl Nat.max 0) e

def JobDesc.missRead (d : JobDesc) (far : Bool) (a n : Nat) : Nat := windowsEnd d.windows far false (d.windows.length + 1) a (a + n)
def JobDesc.missWrite (d : JobDesc) (far : Bool) (a n : Nat) : Nat := windowsEnd d.windows far true (d.windows.length + 1) a (a + n)

/-- Index of the first window of a job that holds an address. -/
def JobDesc.windowOf (d : JobDesc) (far : Bool) (a : Nat) : Nat := (d.windows.findIdx fun w => w.holds far a)

/-- R359: the next address at which a request that starts at `a` must end: an 8 KiB boundary, a change of port, or a boundary
of a window of the job. -/
def State.requestEnd (s : State) (ws : List Window) (far : Bool) (a : Nat) : Nat :=
  let e := (a / 4096 + 1) * 4096
  let edge := ws.any fun w => w.far == far && (w.base == e || w.base + w.size == e)
  if e % 8192 = 0 || edge || s.portOf e ≠ s.portOf a then e else e + 4096

/-- R241: where the mover splits each request of a tile that is not aligned, and 0 for an aligned one. DESIGN CHOICE (log 132): the split lies at the
multiple of min(B, 4 KiB) inside the request, where there is one. -/
def splitUnit (a size : Nat) : Nat := if a % Nat.min size 4096 = 0 then 0 else Nat.min size 4096

/-- The requests that a range is split into: address and length. A request also ends at a multiple of `unit`, where that is not 0. -/
def State.splitRange (s : State) (ws : List Window) (far : Bool) (unit : Nat) : Nat → Nat → Nat → List (Nat × Nat)
  | 0, _, _ => []
  | fuel + 1, a, n =>
    if n = 0 then []
    else
      let e := if unit = 0 then s.requestEnd ws far a else Nat.min (s.requestEnd ws far a) ((a / unit + 1) * unit)
      let len := Nat.min n (e - a)
      (a, len) :: State.splitRange s ws far unit fuel (a + len) (n - len)

/-- More than the number of requests of a range. -/
def splitFuel (unit n : Nat) : Nat := n / 4096 + 2 + if unit = 0 then 0 else n / unit + 1

/-- Two requests overlap, by 512-byte beats. -/
def Req.overlaps (r t : Req) : Bool :=
  r.far == t.far && r.addr < t.addr + 512 * t.beats && t.addr < r.addr + 512 * r.beats

/-- Lowest tag that no request of the port holds. -/
def freeTag (l : List Req) : Option Byte := ((List.range 256).find? fun t => l.all fun r => r.tag ≠ some (BitVec.ofNat 8 t)).map (BitVec.ofNat 8)

/-- R360, R259: gives a waiting request a tag where one is free for it; a settle write may take a reserved one. R359: a request
that overlaps an outstanding write waits, as it does for one that waits before it. -/
def issueReq (reserve : Nat) (before all : List Req) (r : Req) : Req :=
  if r.tag.isSome then r
  else if (all.any fun t => t.tag.isSome && t.write && t.overlaps r) || (before.any fun t => t.write && t.overlaps r) then r
  else
    let open_ := (all.filter fun t => t.tag.isSome && !t.settle).length
    let kept := (all.filter fun t => t.tag.isSome && t.settle).length
    if open_ < 256 - reserve then { r with tag := freeTag all }
    else if r.drain && kept < reserve then { r with tag := freeTag all, settle := true }
    else r

/-- The step in use on a channel has been abandoned (Table 16-10). -/
def Channel.stepAbandoned (c : Channel) : Bool := c.abandoned.any fun x => x.1 == c.step && x.2.1 == c.tag

/-- The rank of a claim on a port (R259): settle writes, ring channels, then the rest. -/
def Req.rank (r : Req) : Nat := if r.drain then 0 else match r.origin with | .bucket _ => 1 | _ => 2

/-- Issues the waiting requests of a port that have a rank, in order. -/
def issueReqs (reserve : Nat) (rank : Nat) : List Req → List Req → List Req
  | done, [] => done
  | done, r :: rest =>
    let r' := if r.rank == rank then issueReq reserve done (done ++ rest) r else r
    issueReqs reserve rank (done ++ [r']) rest

def beatsSent (l : List Req) : Nat := ((l.filter fun r => r.write && r.tag.isSome).map (·.beats)).sum

/-- Every waiting request that can have a tag gets one, in the order of R259. Write credits of the stage buffer (Table 10-6) are taken and given back within
a step, so that no claim is seen to wait for one (DEDUCED, log 159). -/
def TilePort.pump (p : TilePort) (reserve : Nat) : TilePort :=
  let l := [0, 1, 2].foldl (fun l k => issueReqs reserve k [] l) p.reqs
  { p with reqs := l, wrBeats := p.wrBeats + BitVec.ofNat 64 (beatsSent l - beatsSent p.reqs) }

/-- The windows that split and mark a request of the given origin, and its tp_req_class (R358). -/
def State.originJob (s : State) (o : Origin) : Option JobDesc :=
  match o with
  | .plan n | .control n | .cmd n _ | .drain n _ _ => (s.jobs[n]).map (·.desc)
  | .bucket k =>
    match (s.channels[k]).active with
    | some a => (s.jobs[a.red.job]).map (·.desc)
    | none => none
  | _ => none

def State.reqOf (s : State) (o : Origin) (write far drain : Bool) (a n : Nat) (old : List Host.Cell) (fills : List Fill) : Req :=
  let d := s.originJob o
  { tag := none, write := write, addr := a / 512 * 512, beats := (a + n - 1) / 512 - a / 512 + 1, got := 0, far := far
    ro := match d with
      | none => !write && !s.mgmt.cut.isApplied
      | some j => !write && ((j.windows[j.windowOf far a]?).map (!·.rw)).getD false
    window := match d with | none => 0xF | some j => BitVec.ofNat 4 (j.windowOf far a)
    cls := match d with | none => 0 | some j => if j.latency then 1 else 2
    drain := drain, settle := false, origin := o, timedOut := false, start := a, data := [], bad := [], old := old, fills := fills }

/-- tp_rd_par and tp_wd_par over a beat: bit i is the XOR of data bits [64i+63:64i] (Table 15-5). -/
def beatParity (data : List Byte) : DWord :=
  BitVec.ofNat 64 (((List.range 64).map fun i =>
    ((List.range 8).foldl (fun n j => n + popcount (data.getD (8 * i + j) 0).toNat 8) 0) % 2 * 2 ^ i).sum)

/-- Beat j of a write at the write-data channel (Table 15-5, R359): a byte outside the strobed words is 0. -/
def Req.writeBeat (r : Req) (j : Nat) : WriteBeat :=
  let lo := r.addr + 512 * j
  let mine (a : Nat) : Bool := r.start ≤ a && a < r.start + r.data.length
  let data := (List.range 512).map fun i => if mine (lo + i) then r.data.getD (lo + i - r.start) 0 else 0
  { data := data
    par := beatParity data
    strb := BitVec.ofNat 64 (((List.range 64).map fun i => if mine (lo + 8 * i) then 2 ^ i else 0).sum)
    poison := r.bad.contains (lo / 512)
    last := j + 1 == r.beats }

/-- The beats of a write, in ascending address order. -/
def Req.writeBeats (r : Req) : List WriteBeat := if r.write then (List.range r.beats).map r.writeBeat else []

/-- Issues what a port can issue; one that holds a fault report issues nothing (R404). -/
def State.pumpPort (s : State) (p : Fin 32) : State :=
  if s.unitHeld .tilePort p.val then s else s.modPort p fun q => q.pump s.wrespReserve

def State.addReq (s : State) (r : Req) : State :=
  (s.modPort (s.portOf r.addr) fun p => { p with reqs := p.reqs ++ [r] }).pumpPort (s.portOf r.addr)

/-- A boot read on T0 of at most 8 KiB (R30, R359): ro 1, window 0xF, class 0. -/
def State.bootRead (s : State) (a n : Nat) : State :=
  let r : Req := { s.reqOf .boot false false false a n [] [] with ro := true }
  s.modPort 0 fun p => ({ p with reqs := p.reqs ++ [r] }).pump 0

/-- The windows at whose boundaries requests of an origin are split. -/
def State.originWindows (s : State) (o : Origin) : List Window := match s.originJob o with | none => [] | some d => d.windows

/-- A write of bytes to external memory: it takes effect in the image at once, and its requests stay outstanding until their
responses (R359, R362, R365). `bad` lists the poisoned 512-byte beats. -/
def State.extWriteBy (s : State) (unit : Nat) (o : Origin) (far drain : Bool) (a : Nat) (bs : List Byte) (bad : List Nat) : State :=
  if bs.isEmpty then s
  else
    let n := bs.length
    let m := s.ext.mem far
    let chunks := s.splitRange (s.originWindows o) far unit (splitFuel unit n) a n
    let m1 := m.writeBytes a bs
    let old (x len : Nat) := (List.range len).map fun i => (x + i, m.read (x + i))
    let newReqs := chunks.map fun (x, len) =>
      let lo := x / 8 * 8
      { s.reqOf o true far drain x len (old x len) [] with
        start := lo, data := m1.bytes lo ((x + len + 7) / 8 * 8 - lo), bad := (beatsOf x len).filter bad.contains }
    let pois := (beatsOf a n).foldl
      (fun l b => poisonWrite l b (a ≤ 512 * b && 512 * b + 512 ≤ a + n) (bad.contains b)) (s.ext.poison far)
    let s1 : State := { s with
      ext := (s.ext.setMem far m1).setPoison far pois }
    newReqs.foldl State.addReq s1

def State.extWrite (s : State) (o : Origin) (far drain : Bool) (a : Nat) (bs : List Byte) (bad : List Nat) : State :=
  s.extWriteBy 0 o far drain a bs bad

/-- A write of the block's own traffic (R359): tier 1, window 0xF. -/
def State.blockWrite (s : State) (a : Nat) (bs : List Byte) : State := s.extWrite .block false false a bs []

/-- The reads of a range; their data go where `fills` says, as well as to the command that waits for them. -/
def State.extFetch (s : State) (unit : Nat) (o : Origin) (far : Bool) (a n : Nat) (fills : List Fill) : State :=
  let chunks := s.splitRange (s.originWindows o) far unit (splitFuel unit n) a n
  (chunks.map fun (x, len) => s.reqOf o false far false x len [] fills).foldl State.addReq s

/-- The reads of several ranges of an origin. -/
def State.fetchAll (s : State) (o : Origin) (l : List (Bool × Nat × Nat)) : State := l.foldl (fun s r => s.extFetch 0 o r.1 r.2.1 r.2.2 []) s

/-- Bytes of tier 1. -/
def State.near (s : State) (a n : Nat) : List Byte := s.ext.near.bytes a n

/-- Whether requests of an origin that satisfies `p` are outstanding (writes only, or reads too). -/
def State.outstanding (s : State) (p : Req → Bool) : Bool := s.tilePorts.toList.any fun t => t.reqs.any p

/-- The request serves the command. -/
def Origin.isCmd (o : Origin) (n : Fin 32) (r : CmdRef) : Bool :=
  match o with
  | .cmd m q | .drain m q _ => m == n && q == r
  | _ => false

/-- The request serves the job, but not one of its buckets. -/
def Origin.isJob (o : Origin) (n : Fin 32) : Bool :=
  match o with
  | .cmd m _ | .drain m _ _ | .plan m | .control m => m == n
  | _ => false

/-- A read of an origin is outstanding. -/
def State.reading (s : State) (o : Origin) : Bool := s.outstanding fun q => !q.write && q.origin == o

/-- R236: the writes of a job make stale every residency tag whose source overlaps the written range at 4 KiB granularity. -/
def Slot.stale (far : Bool) (a n : Nat) (sl : Slot) : Slot :=
  let lo := a / 4096 * 4096
  let hi := (a + n + 4095) / 4096 * 4096
  { sl with tiles := sl.tiles.map fun t =>
      if t.far == far && t.addr < hi && lo < t.addr + t.size then { t with valid := false } else t }

def State.stale (s : State) (far : Bool) (a n : Nat) : State :=
  { s with cores := s.cores.map fun c => { c with slots := c.slots.map (Slot.stale far a n) } }

/-- A write of a job to external memory; the tags that it makes stale fall at its response (R236). -/
def State.jobWrite (s : State) (o : Origin) (far drain : Bool) (a : Nat) (bs : List Byte) (bad : List Nat) : State :=
  s.extWrite o far drain a bs bad

/-! ### Tier 0 -/

/-- The free queues 0 to 3 of a core at the start of a job: every slot of the class in service, lowest first (R253). -/
def State.freshQueues (s : State) (c : Fin 32) : Vector (List (BitVec 16)) 16 :=
  Vector.ofFn fun q =>
    if q.val < 4 && s.cores[c].inService then
      ((List.finRange 64).filter fun i => s.slotClass i.val == q.val && !(s.cores[c].slots[i]).retired).map (s.handleOf c)
    else []

/-- Table 02-7, R317 item 4, R328 item 4: every residency tag invalid, stage buffers and accumulator memories zero. -/
def State.clearTier0 (s : State) : State :=
  { s with
    transit := []
    cores := Vector.ofFn fun c =>
      let k := s.cores[c]
      { k with sb := [], tasks := [], hampers := s.freshQueues c, feederRun := [], drainRun := [],
               slots := k.slots.map fun sl => { Slot.empty with retired := sl.retired, parityRun := sl.parityRun, parityHit := sl.parityHit } }
    facets := s.facets.map fun f => { f with acc := [], residues := [], check := [] } }

end Sys2Proof.Machine
end

