-- ==== Sys2Proof/Machine/Control.lean ====
section
/-! DEFINITION. Completion and failure of commands (R265, R268, R406), units leaving service (R339 to R342), and the end of a
job (R264, R313, R327, R328). -/

namespace Sys2Proof.Machine

/-! ### Commands in flight -/

def Job.flightOf (j : Job) (r : CmdRef) : Option InFlight := j.flight.find? fun f => f.ref == r

def Job.modFlight (j : Job) (r : CmdRef) (g : InFlight → InFlight) : Job :=
  { j with flight := j.flight.map fun f => if f.ref == r then g f else f }

def State.modFlight (s : State) (n : Fin 32) (r : CmdRef) (g : InFlight → InFlight) : State :=
  s.modJob n fun j => j.modFlight r g

def State.flight (s : State) (n : Fin 32) (r : CmdRef) : Option InFlight := (s.jobs[n]).bind fun j => j.flightOf r

/-- The first fault of the job, for its completion record (R406). -/
def Job.noteFault (j : Job) (code : Half) (index label : Word) : Job :=
  if j.firstFault = 0 then { j with firstFault := code, faultIndex := index, faultLabel := label } else j

/-! ### Slots and tasks -/

/-- The release stage takes the handles of queue 7 to the free queues of their classes (Table 10-5, R254). -/
def State.releaseQueue (s : State) (c : Fin 32) : State :=
  let put (v : Vector (List (BitVec 16)) 16) (h : BitVec 16) : Vector (List (BitVec 16)) 16 :=
    let q : Fin 16 := ⟨s.slotClass (handleSlot h).val % 16, by omega⟩
    if (v[q]).contains h then v else vmod v q (· ++ [h])
  s.modCore c fun k => { k with hampers := (k.hampers[(7 : Fin 16)]).foldl put (vset k.hampers 7 []) }

/-- A slot whose tiles are done goes to queue 7, and the release stage takes it at once (log 131); it leaves the queues of tiles that are ready. A
retired slot never returns (Table 14-3). -/
def State.freeSlot (s : State) (c : Fin 32) (i : Fin 64) : State :=
  let h := s.handleOf c i
  if ((s.cores[c]).slots[i]).retired then s
  else
    (s.modCore c fun k =>
      { k with hampers := vmod (vmod (vmod k.hampers 4 (·.filter (· ≠ h))) 5 (·.filter (· ≠ h))) 7 (· ++ [h]) }).releaseQueue c

/-- Subtracts from a slot's hold count. -/
def State.unhold (s : State) (c : Fin 32) (i : Fin 64) : State :=
  s.modCore c fun k => { k with slots := vmod k.slots i fun sl => { sl with hold := sl.hold - 1 } }

/-- The facet whose accumulator memory a unit of this gang adds into: the last of its series (Table 04-7). -/
def Task.accFacet (t : Task) : Fin 4 := t.gang.getLast?.getD 0

/-- Byte range of a unit in its accumulator memory: `rows` tile rows of 64 words of 8 bytes from tile row `base`. -/
def accRange (base rows : Nat) : Nat × Nat := (base * 512, rows * 512)

/-- Clears a range of an accumulator memory (R128). -/
def Facet.clearRange (f : Facet) (base rows : Nat) : Facet :=
  { f with acc := f.acc.clear (accRange base rows).1 (accRange base rows).2, residues := f.residues.clear (64 * base) (64 * rows) }

/-! ### Polish at a pass boundary (R335, R338) -/

/-- The k in force: 0 under a thermal trip, else the loop's k capped at 8 − n. -/
def State.dutyInForce (s : State) : Nat :=
  if s.mgmt.loops.tripped then 0 else Nat.min s.mgmt.loops.duty.toNat (8 - s.mgmt.pins.throttle.toNat)

/-- Facets that a pass uses: its gang, and under dual pass the partner of a single facet, or where that is out of service another facet of the core
(R99). -/
def State.passFacets (s : State) (c : Fin 32) (p : Product) (gang : List (Fin 4)) : List (Fin 4) :=
  match p.dual, gang with
  | true, [f] =>
    let g : Fin 4 := ⟨(f.val ^^^ 1) % 4, by omega⟩
    if s.facetUp (facetIx c g) then [f, g]
    else
      match (s.coreFacets c).find? (· ≠ f) with
      | some h => [f, h]
      | none => [f]
  | _, _ => gang

/-- The facets that work on a task: its gang, and while a pass is in flight all that the pass uses. -/
def State.taskFacets (s : State) (c : Fin 32) (t : Task) : List (Fin 4) :=
  match t.pass, s.running.bind fun x => (x.2.flightOf t.ref).bind (·.prod) with
  | some _, some p => s.passFacets c p t.gang
  | _, _ => t.gang

/-- A pass in flight uses the facet. -/
def State.facetBusy (s : State) (g : Fin 128) : Bool :=
  s.cores[facetCore g].tasks.any fun t => t.pass.isSome && (s.taskFacets (facetCore g) t).contains (facetSub g)

/-- Starts the immediate and forced polishes of a core's facets that are at a pass boundary and have array clock (R335, R338,
R349). In FAILED every core is held idle (R43). -/
def State.startPolishes (s : State) (c : Fin 32) : State :=
  if s.mgmt.polish.disable || s.dutyInForce = 0 || s.mgmt.boot.cutState == .failed then s
  else
    (List.finRange 4).foldl (fun s f =>
      let g := facetIx c f
      let k := s.facets[g]
      if s.facetUp g && (k.immediate || k.forced) && !s.facetBusy g then
        s.modFacet g fun f => { f with polishing := true }
      else s) s

/-- Ends a task without settling: holds released, carry slots freed, its accumulator range cleared (R128). A pass of it that was in flight ends, and with it
the wait of a polish of its facets (R338). -/
def State.dropTask (s : State) (c : Fin 32) (t : Task) : State :=
  let s1 := t.held.foldl (fun s x => s.unhold x.1 x.2) s
  let s2 := t.carrySlots.foldl (fun s i => s.freeSlot c i) s1
  let s3 := s2.modFacet (facetIx c t.accFacet) fun f => f.clearRange t.accBase t.accRows
  let s4 := s3.modCore c fun k => { k with tasks := k.tasks.filter fun u => !(u.ref == t.ref && u.item == t.item) }
  if t.pass.isSome then s4.startPolishes c else s4

/-- Drops every task of a core that satisfies `p`; returns the dropped ones. -/
def State.dropTasks (s : State) (c : Fin 32) (p : Task → Bool) : State × List Task :=
  let l := s.cores[c].tasks.filter p
  (l.foldl (fun s t => s.dropTask c t) s, l)

/-- R285: an item goes to the return list of its command, and with it the split participants already combined into its range
(R135, R138). -/
def Product.giveBack (p : Product) (t : Task) : Product :=
  let back := t.item :: t.arrived
  if p.settled.contains t.item then p
  else
    { p with returned := p.returned ++ back, settled := p.settled.filter (!back.contains ·),
             groupCores := p.groupCores.filter (!back.contains ·.1)
             handles := if t.queued.isEmpty then p.handles else p.handles ++ [(t.item, t.queued)] }

def State.returnItem (s : State) (n : Fin 32) (t : Task) : State :=
  s.modFlight n t.ref fun f => { f with prod := f.prod.map fun p => p.giveBack t }

/-- Returns the items of the tasks of a core that satisfy `p`. -/
def State.returnTasks (s : State) (c : Fin 32) (p : Task → Bool) : State :=
  match s.sched.run with
  | none => (s.dropTasks c p).1
  | some n =>
    let (s1, l) := s.dropTasks c p
    l.foldl (fun s t => s.returnItem n t) s1

/-- The handles that a command has taken from a queue and not settled (R284), and those of slots that it fills and has not pushed. -/
def State.queuedHandles (s : State) (n : Fin 32) (r : CmdRef) : List (BitVec 16) :=
  let tasks := (allCores.map fun c => ((s.cores[c].tasks.filter fun t => t.ref == r).map (·.queued)).flatten).flatten
  let back := (((s.flight n r).bind (·.prod)).map fun p => (p.handles.map (·.2)).flatten).getD []
  let taken := (((s.flight n r).bind (·.mv)).map fun m => m.taken.map fun x => s.handleOf x.1 x.2).getD []
  (tasks ++ back ++ taken).foldl (fun l h => if l.contains h then l else l ++ [h]) []

/-- Slots whose handles a command took go back once nothing reads them. -/
def State.freeHandles (s : State) (l : List (BitVec 16)) : State :=
  l.foldl (fun s h =>
    let sl : Slot := (s.cores[handleCore h]).slots[handleSlot h]
    if sl.hold = 0 && sl.owners.isEmpty then s.freeSlot (handleCore h) (handleSlot h) else s) s

/-- R237: the residency tags of what a command fetched become invalid. -/
def Slot.voidFor (r : CmdRef) (sl : Slot) : Slot :=
  if sl.fetcher == some r then { sl with tiles := sl.tiles.map fun t => { t with valid := false } } else sl

/-- In exclusive-home mode no copy that a command fetched outlives it, whoever holds the slot by then (R237). -/
def State.voidTags (s : State) (n : Fin 32) (r : CmdRef) : State :=
  if ((s.jobs[n]).map fun j => j.desc.exclusive).getD false then
    { s with cores := s.cores.map fun k => { k with slots := k.slots.map (Slot.voidFor r) } }
  else s

/-- Releases what a command holds when it ends: its tasks, the slots it fetched and the handles it took (R254), and in exclusive-home mode the
residency tags of what it fetched (R237). -/
def State.releaseCmd (s : State) (n : Fin 32) (r : CmdRef) : State :=
  let handles := s.queuedHandles n r
  State.freeHandles (allCores.foldl (fun s c =>
    let s1 := (s.dropTasks c fun t => t.ref == r).1
    (List.finRange 64).foldl (fun s i =>
      let sl : Slot := (s.cores[c]).slots[i]
      if sl.owners.contains r then
        let s2 := s.modCore c fun k => { k with slots := vmod k.slots i fun sl => { sl with owners := sl.owners.filter (· ≠ r) } }
        if sl.hold = 0 && sl.owners.all (· == r) then s2.freeSlot c i else s2
      else s) s1) (s.voidTags n r)) handles

/-! ### Completion (R265, R268) -/

/-- The status byte of a plan command (Table 11-4). -/
def State.writeStatus (s : State) (n : Fin 32) (r : CmdRef) (b : Byte) : State :=
  match s.jobs[n], r.body with
  | some j, none => if j.desc.statusBase = 0 then s else s.blockWrite (j.desc.statusBase + r.plan) [b]
  | _, _ => s

/-- A command leaves flight with its status byte; a plan command counts as completed. -/
def State.finishCmd (s : State) (n : Fin 32) (f : InFlight) (status : Byte) : State :=
  let s1 := (s.releaseCmd n f.ref).writeStatus n f.ref status
  s1.modJob n fun j =>
    let j1 := { j with flight := j.flight.filter fun g => !(g.ref == f.ref) }
    if f.ref.body.isSome then j1
    else { j1 with done := j.done + 1, ends := j.ends ++ [⟨f.ref.plan, f.step, status.toNat ≥ 4⟩],
                   roster := if f.op = .rosterStep then none else j.roster }

/-- Whether a write of the command awaits its response. -/
def State.writesOpen (s : State) (n : Fin 32) (r : CmdRef) : Bool :=
  s.outstanding fun q => q.write && q.origin.isCmd n r

/-- A reset of rank job or higher is quiescing (an abort is none). -/
def State.resetQuiescing (s : State) : Bool :=
  match s.mgmt.quiesce with
  | some q => q.kind ≠ .abort
  | none => false

/-- Commands whose writes are settle writes, which may take reserved shares (R259). -/
def Op.settles : Op → Bool
  | .product | .settle | .apply | .lazy | .normsq | .scatterAdd | .move => true
  | _ => false

def State.settles (s : State) (n : Fin 32) (r : CmdRef) : Bool := ((s.flight n r).map (·.op.settles)).getD false

/-- The writes of one stage of a command. What a MOVE writes to a descriptor is no write-out of it (R237). -/
def State.issueStage (s : State) (n : Fin 32) (r : CmdRef) (l : List (Bool × Nat × List Byte)) : State :=
  let drain := ((s.flight n r).map fun f => f.op.settles && f.op ≠ .move).getD false
  l.foldl (fun s w => s.jobWrite (.cmd n r) w.1 drain w.2.1 w.2.2 []) s

/-- What follows once the writes of a command have their responses (R164, R188, R289, R301): its next stage of writes, and after
the last its completion (R236, R291). -/
def State.advance (n : Fin 32) (r : CmdRef) : Nat → State → State
  | 0, s => s
  | fuel + 1, s =>
    match s.flight n r with
    | none => s
    | some f =>
      if s.writesOpen n r || f.faulted.isSome || s.resetQuiescing then s
      else
        match f.stages, f.ending with
        | st :: rest, _ => State.advance n r fuel ((s.modFlight n r fun f => { f with stages := rest }).issueStage n r st)
        | [], some b => s.finishCmd n f b
        | [], none => s

def State.advanceCmd (s : State) (n : Fin 32) (r : CmdRef) : State :=
  State.advance n r ((((s.flight n r).map fun f => f.stages.length).getD 0) + 1) s

/-- A command has done its work: it completes once its writes have their responses. -/
def State.completeCmd (s : State) (n : Fin 32) (r : CmdRef) (status : Byte) : State :=
  (s.modFlight n r fun f => { f with ending := some status }).advanceCmd n r

/-! ### Failure -/

def Op.isUpdate : Op → Bool
  | .apply | .lazy | .normsq | .updateBad => true
  | _ => false

/-- A command stops work: its tasks end, its reads that wait for a tag are not issued, and no stage of writes follows. -/
def State.stopCmd (s : State) (n : Fin 32) (r : CmdRef) : State :=
  let s0 := s.modFlight n r fun f => { f with stages := [], work := none }
  let s1 := allCores.foldl (fun s c => (s.dropTasks c fun t => t.ref == r).1) s0
  { s1 with tilePorts := s1.tilePorts.map fun p =>
      { p with reqs := p.reqs.filter fun q => q.write || q.tag.isSome || !q.origin.isCmd n r } }

/-- State word of a roster entry (Table 12-2). -/
def rosterWordAddr (base i : Nat) : Nat := base + 0x1000 + 8 * i
def rosterEntryAddr (base i : Nat) : Nat := base + 0x11000 + 64 * i

/-- R300: when the body fails, every LISTED entry returns to READY and keeps its ready_seq. -/
def State.unlist (s : State) (n : Fin 32) (ro : Roster) : State :=
  ro.listed.foldl (fun s e =>
    let a := rosterWordAddr ro.base e
    let b := s.ext.near.read a
    if b.toNat % 16 = 3 then
      s.extWrite (.cmd n ro.ref) false false a (leBytes 1 (b.toNat - 1) ++ s.near (a + 1) 7) []
    else s) s

/-- Ends a command by a fault already reported. The fault of a body command ends its ROSTER_STEP (R300). -/
def State.endFaulted (s : State) (n : Fin 32) (r : CmdRef) (status : Byte) : State :=
  match r.body, (s.jobs[n]).bind (·.roster) with
  | some _, some ro =>
    let body := ((s.jobs[n]).map fun j => j.flight.filter fun f => f.ref.body.isSome).getD []
    let s1 := body.foldl (fun s f => (s.stopCmd n f.ref).finishCmd n f status) s
    (s1.unlist n ro).completeCmd n ro.ref status
  | _, _ => (s.stopCmd n r).completeCmd n r status

/-- The job and client of a report about a command of job n. -/
def State.ofJob (s : State) (n : Fin 32) (r : Report) : Report :=
  { r with job := some n.val, client := match s.jobs[n] with | some j => BitVec.ofNat 8 j.client.val | none => 0 }

/-- The command is ending by a fault already. -/
def InFlight.endsBad (f : InFlight) : Bool := match f.ending with | some b => 4 ≤ b.toNat | none => false

/-- A fault that ends the command waits for the queue, and not only one of a sequence of its roster (R404). -/
def InFlight.doomed (f : InFlight) : Bool := match f.faulted with | some (_, c) => c != .seq | none => false

/-- A fault of a command. R404: while its report waits for an entry, the command neither completes nor ends. One that is ending by a fault already is
only reported. -/
def State.failWith (s : State) (n : Fin 32) (f : InFlight) (r : Report) (status : Byte) : State :=
  let s1 := s.enter (s.ofJob n r)
  if f.endsBad then s1
  else if s.queueFull then s1.modFlight n f.ref fun f => if f.doomed then f else { f with faulted := some (r.code, r.scope) }
  else (s1.modJob n fun j => j.noteFault r.code (planWord f.ref) f.label).endFaulted n f.ref status

def State.failCmd (s : State) (n : Fin 32) (f : InFlight) (code : Half) (scope : Scope) (uk : UnitKind) (ui : Nat)
    (detail : Word) (status : Byte) : State :=
  s.failWith n f (s.report code true scope uk ui (planWord f.ref) f.label detail) status

/-- The fault of a command in flight, found by its reference; status byte 0x04. -/
def State.failRef (s : State) (n : Fin 32) (r : CmdRef) (code : Half) (scope : Scope) (uk : UnitKind) (ui : Nat) : State :=
  match s.flight n r with
  | none => s
  | some f => s.failCmd n f code scope uk ui 0 0x04

/-- The port of an address refuses a request outside the job's windows (R234, Table 16-19). -/
def State.refuseAt (s : State) (a : Nat) : State := s.modPort (s.portOf a) fun p => { p with windowRefusals := satInc p.windowRefusals }

/-- A fault of one sequence of a roster: its report (R406), whose detail is the entry. While it waits for the queue the command does not complete
(R404). -/
def State.seqFault (s : State) (n : Fin 32) (f : InFlight) (code : Half) (uk : UnitKind) (ui entry : Nat) : State :=
  let s1 := s.enter (s.ofJob n (s.report code true .seq uk ui (planWord f.ref) f.label (BitVec.ofNat 32 entry)))
  if s.queueFull then s1.modFlight n f.ref fun f => { f with faulted := f.faulted.or (some (code, .seq)) } else s1

/-- A list entry ends by a fault, its first: retire ends its sequence, and the report names the body command (R298, R306). -/
def State.endSequence (s : State) (n : Fin 32) (f : InFlight) (code : Half) (uk : UnitKind) (ui i : Nat) : State :=
  match (s.jobs[n]).bind (·.roster) with
  | none => s
  | some ro =>
    if i ≥ ro.listed.length || ro.poisoned.any fun x => x.1 = i then s
    else (s.modJob n fun j => { j with roster := j.roster.map fun ro => { ro with poisoned := ro.poisoned ++ [(i, code)] } }).seqFault n f code uk ui
      (ro.listed.getD i 0)

/-- A write for list entries lies outside the windows: they end with 0x0201 (R306). -/
def State.refuseFor (s : State) (n : Fin 32) (f : InFlight) (a : Nat) (entries : List Nat) : State :=
  entries.foldl (fun s i => s.endSequence n f 0x0201 .tilePort (s.portOf a).val i) (s.refuseAt a)

/-- A request outside the windows ends its command. -/
def State.windowFault (s : State) (n : Fin 32) (r : CmdRef) (a : Nat) : State :=
  (s.refuseAt a).failRef n r 0x0201 .step .tilePort (s.portOf a).val

/-- A command that fails at issue (R268): it completes at once with its fault, reported by the lead pair. -/
def State.failIssue (s : State) (n : Fin 32) (f : InFlight) (code : Half) (scope : Scope) : State :=
  (s.modJob n fun j => { j with flight := j.flight ++ [f] }).failCmd n f code scope .seqPair s.leadIx 0 0x04

/-! ### The completion record (Table 11-3) -/

/-- Plan index and step of the commands of the plan in memory, up to its first END. -/
def planSteps (m : Mem) (base baseStep : Nat) : Nat → Nat → List (Nat × Nat)
  | 0, _ => []
  | fuel + 1, i =>
    let a := base + 64 * i
    let st := baseStep + m.field (a + 2) 2
    (i, st) :: if (m.read a).toNat = 0 then [] else planSteps m base baseStep fuel (i + 1)

/-- last_step: the highest step s such that every command of step s or below has completed without fault. A plan that runs
into zeroed memory ends there, so it has at most one command more than memory lists bytes. -/
def State.lastStep (s : State) (j : Job) : Nat :=
  let cmds := planSteps s.ext.near j.desc.planBase j.desc.baseStep (s.ext.near.length + 1) 0
  let clean (i : Nat) := j.ends.any fun e => e.plan == i && !e.faulted
  let stop := (cmds.filter fun c => !clean c.1).map (·.2)
  let lim := stop.foldl Nat.min (2 ^ 32)
  ((cmds.map (·.2)).filter (· < lim)).foldl Nat.max (j.desc.baseStep - 1)

def recordBytes (cookie : DWord) (last done : Nat) (code : Half) (index label : Word) (start end_ : DWord) (word : Nat) : List Byte :=
  leBytes 8 cookie.toNat ++ leBytes 4 last ++ leBytes 4 done ++ leBytes 2 code.toNat ++ leBytes 2 0
    ++ leBytes 4 index.toNat ++ leBytes 4 label.toNat ++ leBytes 4 0 ++ leBytes 8 start.toNat ++ leBytes 8 end_.toNat
    ++ leBytes 8 0 ++ leBytes 8 word

/-- CLIENT_COMPLETED advances when end_word is written (R316), and wraps. -/
def State.countCompleted (s : State) (c : Fin 256) : State := s.modClient c fun k => { k with completed := k.completed + 1 }

/-- R264: bytes 0x00 to 0x37 are written first, then end_word, whose request waits for their responses (R359). -/
def State.putRecord (s : State) (a : Nat) (b : List Byte) : State := (s.blockWrite a (b.take 0x38)).blockWrite (a + 0x38) (b.drop 0x38)

/-- R264, R328 items 1 and 2: the completion record, and the job_end interrupt. The record's fault_index and fault_label are free
values while no command raised first_fault (log 2). -/
def State.writeRecord (s : State) (n : Fin 32) (endWord : Nat) : State :=
  match s.jobs[n] with
  | none => s
  | some j =>
    let open_ := j.firstFault = 0 || j.faultIndex = 0xFFFFFFFF
    let index := if open_ then Config.freeWord s.fresh else j.faultIndex
    let label := if open_ then Config.freeWord (s.fresh + 1) else j.faultLabel
    let rec_ := recordBytes j.desc.cookie (s.lastStep j) j.done.toNat j.firstFault index label j.startBeat s.beatNow endWord
    (({ s with fresh := s.fresh + 2 }.putRecord j.desc.completion rec_).countCompleted j.client).raiseIrq 0

/-! ### Scheduling and the end of a job -/

/-- Lowest pair in service, S0 first (R18). -/
def State.firstPair (s : State) : Option (Fin 8) := allPairs.find? fun i => (s.pairs[i]).state == .running || (s.pairs[i]).state == .halted

/-- A change of lead pair takes effect at a job boundary (R18). -/
def State.setLead (s : State) : State :=
  { s with mgmt := { s.mgmt with lead :=
      match s.firstPair with
      | some i => { pair := BitVec.ofNat 3 i.val, valid := true }
      | none => { s.mgmt.lead with valid := false } } }

def State.anyFacet (s : State) : Bool := allFacets.any s.facetUp

/-- R342: the block admits no job once no pair or no facet remains. -/
def State.canWork (s : State) : Bool := s.firstPair.isSome && s.anyFacet && !s.mgmt.boot.stopped

/-- Order of best-effort turns: start_beat, then client (R313). -/
def turnBefore (a b : Job) : Bool := a.startBeat < b.startBeat || (a.startBeat == b.startBeat && a.client.val < b.client.val)

/-- Jobs that wait to run. -/
def State.waiting (s : State) : List (Fin 32 × Job) :=
  (List.finRange 32).filterMap fun n =>
    (s.jobs[n]).bind fun j => if j.state = .admitted || j.state = .suspended then some (n, j) else none

def oldest (l : List (Fin 32 × Job)) : Option (Fin 32 × Job) :=
  l.foldl (fun b x => match b with | none => some x | some y => if turnBefore x.2 y.2 then some x else b) none

/-- R313: the oldest latency-critical job, else the best-effort job next in turn after the one whose turn was last. -/
def State.choose (s : State) : Option (Fin 32 × Job) :=
  match oldest (s.waiting.filter fun x => x.2.desc.latency) with
  | some x => some x
  | none =>
    let l := s.waiting.filter fun x => !x.2.desc.latency
    match s.sched.lastTurn with
    | none => oldest l
    | some (b, c) =>
      match oldest (l.filter fun x => b < x.2.startBeat || (b == x.2.startBeat && c < x.2.client.val)) with
      | some x => some x
      | none => oldest l

/-! ### Reading the plan (R266) -/

/-- The number of the chunk to read next: at most one ahead of the fetch stage. -/
def Job.nextChunk (j : Job) : Option Nat :=
  let at_ := j.fetchPos / 64
  let k := match j.chunks.getLast? with | some c => c.number + 1 | none => at_
  if k ≤ at_ + 1 then some k else none

/-- First command of a chunk at or after `from` whose beat is bad, unless an END comes before it. -/
def firstBad (b : List Byte) (bad : Nat → Bool) : Nat → Nat → Option Nat
  | 0, _ => none
  | fuel + 1, i => if bad (i / 8) then some i else if u8 b (64 * i) = 0 then none else firstBad b bad fuel (i + 1)

/-- The plan's first END lies in a chunk already read. -/
def Job.endRead (j : Job) : Bool :=
  j.chunks.any fun c => (List.range 64).any fun i => 64 * c.number + i ≥ j.fetchPos && 64 * i < c.bytes.length && u8 c.bytes (64 * i) == 0

/-- A chunk that ends before a command that cannot be read: that command, once the fetch stage has come to it or, outside the windows, to one behind it. -/
def Job.badReached (j : Job) : Option (Option Nat) :=
  match j.chunks.getLast? with
  | none => none
  | some c =>
    if c.bytes.length = 4096 then none
    else some (if 64 * c.number + c.bytes.length / 64 ≤ j.fetchPos && j.fetchPos / 64 = c.number && j.roster.isNone then some j.fetchPos else none)

/-- The fetch stage reads ahead: no quiescing, and no pre-emption but one that goes on towards a cheap point (R323). -/
def State.fetchOpen (s : State) (j : Job) : Bool :=
  s.ready && s.mgmt.quiesce.isNone && !j.ended && match s.sched.switch with
    | none => true
    | some w => w.phase == .stopping && w.cheapUntil.isSome && w.stopAt.isNone

/-- The next chunk of the plan is asked for where it is due; one outside the windows is not (R234, R359: windows and plan chunks are multiples of 4 KiB). -/
def State.readChunk (s : State) : State :=
  match s.running with
  | none => s
  | some (n, j) =>
    if !s.fetchOpen j || j.reading.isSome || j.endRead || j.badReached.isSome || s.reading (.plan n) then s
    else
      match j.nextChunk with
      | none => s
      | some k =>
        let a := j.desc.planBase + 4096 * k
        let s1 := s.modJob n fun j => { j with reading := some (k, []) }
        if j.desc.mayRead false a 4096 then s1.extFetch 0 (.plan n) false a 4096 [] else s1

/-- Starts the chosen job when none runs: a new job at once, a suspended one by its restore (R325). -/
def State.schedule (s : State) : State :=
  if s.sched.run.isSome || s.sched.switch.isSome || s.mgmt.quiesce.isSome || !s.canWork then s
  else
    let s0 := s.setLead
    match s0.choose with
    | none => s0
    | some (n, j) =>
      let turn := if j.desc.latency then s0.sched.lastTurn else some (j.startBeat, j.client.val)
      let sw : Option Switch :=
        if j.state = .suspended then
          some { phase := .restoreHeader, cheapUntil := none, stopAt := none, cheap := false, saveBeat := 0, waits := [], cursor := 0, bad := false }
        else none
      { s0 with sched := { run := some n, switch := sw, sliceStart := s0.beatNow, lastTurn := turn },
                jobs := vmod s0.jobs n (Option.map fun j => { j with state := .running }) }

/-- Releases an admitted place (R328 item 6). -/
def State.releaseJob (s : State) (n : Fin 32) : State :=
  { s with jobs := vset s.jobs n none, sched := if s.sched.run = some n then { s.sched with run := none, switch := none } else s.sched }

/-- A channel engine still holds a bucket that it accepted for the job (R230, R328 item 3). -/
def Channel.holds (k : Channel) (n : Fin 32) : Bool :=
  k.staging.any (·.job == n) || (match k.active with | some a => a.red.job == n && !a.relay | none => false)

def State.bucketsOf (s : State) (n : Fin 32) : Bool := s.channels.toList.any fun k => k.holds n

/-- R328 items 4 to 6, then the next job (R313). -/
def State.finishTeardown (s : State) (n : Fin 32) : State :=
  (allCores.foldl (fun s c => s.startPolishes c) (s.clearTier0.releaseJob n).setLead).schedule

/-- The source ranges of a bucket. -/
def Reduce.sources (r : Reduce) : List (Nat × Nat) := r.extents.map fun (src, _, e) => (src, e * if r.wide then 8 else 4)

def rangesMeet (x y : Nat × Nat) : Bool := x.1 < y.1 + y.2 && y.1 < x.1 + x.2

/-- R208: no earlier command of the job that writes tier-1 memory overlapping the source of an extent is still in flight.
`skipped` marks a REDUCE whose job ended before its contribution was ready. -/
def Job.readyFor (j : Job) (r : Reduce) : Bool :=
  (j.flight.takeWhile fun f => !(f.ref == r.ref)).all (fun f => f.writes.all fun w => r.sources.all fun x => !rangesMeet w x)
    && !((j.flightOf r.ref).map (·.skipped)).getD false

/-- The buckets that the engines have accepted. -/
def State.reduces (s : State) : List Reduce :=
  (s.channels.toList.map fun k => k.staging ++ (match k.active with | some a => if a.relay then [] else [a.red] | none => [])).flatten

/-- R328: a running job ends: record, interrupt, then teardown once its accepted buckets have passed. A state_word that a REDUCE still has to write goes
out first. -/
def State.endRunning (s : State) (n : Fin 32) (endWord : Nat) : State :=
  let late (j : Job) (r : CmdRef) : Bool := s.reduces.any fun b => b.job == n && b.ref == r && !j.readyFor b
  let last := (((s.jobs[n]).map fun j => j.flight.filter fun f => f.op = .reduce).getD []).foldl (fun s f => f.stages.foldl (fun s l => s.issueStage n f.ref l) s) s
  let s1 := (last.writeRecord n endWord).modJob n fun j =>
    { j with
      state := .ending
      ended := true
      flight := (j.flight.filter fun f => f.op = .reduce).map fun f => { f with skipped := late j f.ref, stages := [] } }
  if s1.bucketsOf n then s1 else s1.finishTeardown n

/-- The sending port of a channel has sent all that it was handed. -/
def State.sendReady (s : State) (k : Fin 4) : Bool := (s.ringPorts[s.chanSend k]).toSend.isEmpty

/-- The segments of a bucket that the engine has handed to its sending port: its own, and of the incoming ones those that it sends on, 2m − 3 in a lap
(R210). -/
def Active.handed (a : Active) : Nat :=
  let k := 2 * a.red.members - 3
  a.ownLaps + a.lap * k + Nat.min a.incoming k

/-- The number of the ring step in progress, the sending of one segment (R230): the segment handed over last while the port has still to send some of it,
else the next. -/
def State.ringStep (s : State) (k : Fin 4) (a : Active) : Nat :=
  if a.header.isNone && !s.sendReady k && a.handed > 0 then a.handed - 1 else a.handed

/-- A bucket of the job that is past its own decision and has ring steps to go (R230). -/
def Active.steps (a : Active) (n : Fin 32) : Bool := a.red.job == n && !a.relay && !a.passed && a.red.members > 1 && a.decision.isSome

/-- The engine waits for its own reads, not for a remote block. -/
def State.engineReads (s : State) (k : Fin 4) : Bool := s.reading (.bucket k)

/-- The ring steps of the job that are in progress (R230). -/
def State.ringWaits (s : State) (n : Fin 32) : List (Fin 4 × CmdRef × Nat) :=
  (List.finRange 4).filterMap fun k =>
    match (s.channels[k]).active with
    | none => none
    | some a => if a.steps n then some (k, a.red.ref, s.ringStep k a) else none

/-- The REDUCE of a ring step of the job that is not waiting on a remote block: it needs only this block's own memory (R318). -/
def State.ringStepBusy (s : State) (n : Fin 32) (k : Fin 4) : Option InFlight :=
  match (s.channels[k]).active with
  | none => none
  | some a => if a.steps n && s.sendReady k && s.engineReads k then s.flight n a.red.ref else none

/-- A ring step that was in progress has not passed. -/
def State.stepOpen (s : State) (w : Fin 4 × CmdRef × Nat) : Bool :=
  match (s.channels[w.1]).active with
  | none => false
  | some a => a.red.ref == w.2.1 && !a.relay && !a.passed && s.ringStep w.1 a ≤ w.2.2

/-- R319: a ring step that was in progress at the request holds the next job off: it has not passed, and its bucket's deadline (its limit where there is
none) has not come. -/
def State.stillWaits (s : State) (w : Fin 4 × CmdRef × Nat) : Bool :=
  match (s.channels[w.1]).active with
  | none => false
  | some a => s.stepOpen w && !s.reached (a.red.deadline.getD a.red.limit)

/-- The pre-empted job is suspended, and the next job starts (R317 item 4, R313). What had been read of its plan and for its next command is read again
after the restore. -/
def State.suspend (s : State) : State :=
  match s.sched.run with
  | none => s
  | some n =>
    let s1 := s.modJob n fun j => { j with state := .suspended, ask := Ask.none, reading := none }
    State.schedule { s1 with sched := { s1.sched with run := none, switch := none } }

/-- A deferred pre-emption ends once its ring steps no longer wait (R319); not while the job ends by a reset or an abort that quiesces it (R40, R41, R327),
or has ended. -/
def State.afterDeferral (s : State) : State :=
  match s.running, s.sched.switch with
  | some (_, j), some w =>
    if w.phase = .deferred && s.mgmt.quiesce.isNone && !j.ended && !w.waits.any s.stillWaits then s.suspend else s
  | _, _ => s

/-! ### Quiescing (R41) -/

/-- What a write leaves behind: a byte that a later write of the port waits to cover is kept as what that write covers. Answers the
bytes that memory shows again. -/
def handOld (far : Bool) : List Host.Cell → List Req → List Host.Cell × List Req
  | cells, [] => (cells, [])
  | cells, r :: rest =>
    let covers (a : Nat) : Bool := match r.old with | [] => false | c :: _ => c.1 ≤ a && a < c.1 + r.old.length
    if r.write && r.tag.isNone && r.far == far && cells.any fun c => covers c.1 then
      let old := r.old.map fun c => (cells.find? fun x => x.1 == c.1).getD c
      let (left, l) := handOld far (cells.filter fun c => !covers c.1) rest
      (left, { r with old := old } :: l)
    else
      let (left, l) := handOld far cells rest
      (left, r :: l)

/-- A port's requests without those that wait for a tag and satisfy `p`, and the bytes that memory shows again, last request first. -/
def dropWaiting (p : Req → Bool) : List Req → List Req × List (Bool × List Host.Cell)
  | [] => ([], [])
  | r :: rest =>
    let (kept, back) := dropWaiting p rest
    if r.tag.isNone && p r then
      let (cells, kept') := handOld r.far r.old kept
      (kept', back ++ [(r.far, cells)])
    else (r :: kept, back)

/-- A request serves the job: its plan, its commands or a bucket of it, or its save or restore. -/
def State.serves (s : State) (n : Fin 32) (q : Req) : Bool :=
  q.origin.isJob n ||
    match q.origin with
    | .bucket k => ((s.channels[k]).active.map fun a => a.red.job == n).getD false
    | .save | .restore => s.sched.run == some n
    | _ => false

/-- Requests that wait for a tag are not issued; a write among them leaves memory as it was. -/
def State.dropUnissued (s : State) (p : Req → Bool) : State :=
  let left := s.tilePorts.map fun t => dropWaiting p t.reqs
  let back := (left.toList.map (·.2)).flatten
  { s with
    ext := back.foldl (fun e x => e.setMem x.1 ((e.mem x.1).writeCells x.2)) s.ext
    tilePorts := Vector.ofFn fun i => { s.tilePorts[i] with reqs := left[i].1 } }

/-- R363, R352: each word that a failed write covers holds its old value or its new one, independently (log 2). -/
def State.tearWrite (s : State) (q : Req) : State :=
  let back := q.old.filter fun c => Config.keptOld s.fresh (c.1 / 8)
  let port := s.portOf q.addr
  let (cells, reqs) := handOld q.far back (s.tilePorts[port]).reqs
  { s.modPort port (fun p => { p with reqs := reqs }) with
    ext := s.ext.setMem q.far ((s.ext.mem q.far).writeCells cells), fresh := s.fresh + 1 }

def State.startQuiesce (s : State) (k : QuiesceKind) : State :=
  { s with mgmt := { s.mgmt with quiesce := some { kind := k, since := s.beatNow, reported := false } } }

/-- R40, R392: a discarded reset request; its detail is the kind, as RESET_CAUSE.kind encodes it. -/
def State.resetDiscarded (s : State) (kind : Word) : State := s.event 0x070F .block 0 kind

/-- The running job ends by a fault with scope job: its first fault (R406), and a job reset (R40, R327); that reset is discarded while another is in
progress. -/
def State.jobFails (s : State) (code : Half) (index label : Word) : State :=
  match s.running with
  | none => s
  | some (n, j) =>
    if j.ended then s
    else
      let s1 := s.modJob n fun j => j.noteFault code index label
      if s.resetQuiescing then s1.resetDiscarded 3
      else
        let s2 := (s1.dropUnissued (s1.serves n)).startQuiesce .jobFault
        { s2 with mgmt := { s2.mgmt with cause :=
            { s2.mgmt.cause with kind := 3, jobByFault := true, count := satIncH s2.mgmt.cause.count } } }

/-- A fault with scope job. Where its report has to wait for the queue, the job ends once it has entered (R404). -/
def State.jobFault (s : State) (code : Half) (uk : UnitKind) (ui : Nat) (index label : Word) : State :=
  match s.running with
  | none => s
  | some _ =>
    let s1 := s.enter (s.report code true .job uk ui index label 0)
    if s.queueFull then s1 else s1.jobFails code index label

/-! ### Stopping at a boundary (R89, R317, R323, R327) -/

/-- Commands go on to new work: no quiescing and no pre-emption, but one that goes on towards a cheap point; a command marked nopre goes on
through a pre-emption or an abort until it completes (R318). -/
def State.goesOn (s : State) (nopre : Bool) : Bool :=
  (match s.mgmt.quiesce with | none => true | some q => q.kind = .abort && nopre) &&
    match s.sched.switch with
    | none => true
    | some w => w.phase == .stopping && (w.cheapUntil.isSome || nopre)

def State.putTask (s : State) (c : Fin 32) (t : Task) : State :=
  s.modCore c fun k => { k with tasks := k.tasks.map fun u => if u.ref == t.ref && u.item == t.item then t else u }

/-- R89: a pass whose feeding stops at a token boundary keeps the rows of the tokens fed; how many those are is a free value (log 69). -/
def Pass.cut (q : Pass) (k : Nat) : Pass := { q with rows := q.rows.take k, unfed := q.unfed ++ (q.rows.drop k).map (·.token) }

def State.cutPass (s : State) (c : Fin 32) (t : Task) (q : Pass) : State :=
  ({ s with fresh := s.fresh + 1 } : State).putTask c { t with pass := some (q.cut ((Config.freeWord s.fresh).toNat % (q.rows.length + 1))) }

/-- A pass is in flight on some core, or the drain still reads what it needs for the rows of one (R89: its rows are checked and written first). -/
def State.passesOpen (s : State) : Bool := s.cores.toList.any fun c => c.tasks.any fun t => t.pass.isSome || !t.asked.isEmpty

/-- The build of a roster step; the read of the state words in its fill wait is a piece of its own (R296). -/
def Work.building (w : Work) : Bool := match w.plan with | .build .. => w.todo != [.one 0] | _ => false

/-- The command cannot be pre-empted: by its flag, or as COMMIT and the build phase of ROSTER_STEP by nature (R318). -/
def InFlight.unsplit (f : InFlight) : Bool := f.nopre || f.work.any Work.building

/-- A ring step of the job that was in progress at the request still runs, and needs only this block's own memory (R318); in an abort, which notes no
ring steps, any ring step that does. -/
def State.ringBusy (s : State) (n : Fin 32) : Bool :=
  match s.sched.switch with
  | some w => w.waits.any fun x => s.stepOpen x && (s.ringStepBusy n x.1).isSome
  | none => (List.finRange 4).any fun k => (s.ringStepBusy n k).isSome

/-- Some command of job n has not come to its boundary: a pass is in flight, or a command or a ring step that cannot be pre-empted still runs
(R317, R318). -/
def State.boundaryOpen (s : State) (n : Fin 32) : Bool :=
  s.passesOpen || s.ringBusy n || ((s.jobs[n]).map fun j => j.flight.any fun f => f.unsplit && !f.endsBad).getD false

/-- JOB_ABORT quiesces the running job (R327). -/
def State.aborting (s : State) : Bool := match s.mgmt.quiesce with | some q => q.kind = .abort | none => false

/-- Commands that a nopre flag protects: their own, or for a command of a roster body that of the ROSTER_STEP around it. -/
def State.shielded (s : State) (n : Fin 32) (r : CmdRef) : Bool :=
  let flag (q : CmdRef) : Bool := ((s.flight n q).map (·.nopre)).getD false
  flag r || (r.body.isSome && flag ⟨r.plan, none⟩)

/-- Feeding stops in every pass in flight of a command of job n that does not go on. -/
def State.stopFeeding (s : State) (n : Fin 32) : State :=
  allCores.foldl (fun s c => ((s.cores[c]).tasks).foldl (fun s t =>
    match t.pass with
    | some q => if s.goesOn (s.shielded n t.ref) then s else s.cutPass c t q
    | none => s) s) s

/-! ### Ring ports -/

/-- Training starts: lane mode releases the SerDes and enables its lanes, UCIe mode requests Active (R373, Tables 15-8 and 15-15).
PRESUMED (log 115): the code of Active on lp_state_req. -/
def RingPort.startTraining (p : RingPort) (ucie : Bool) (now : DWord) : RingPort :=
  let q : RingPort := { p with state := .training, trainGood := 0, phyUp := false, lastTry := now }
  if ucie then { q with lpStateReq := 1 } else { q with serdesRstN := true, laneEn := 0xFFFF }

/-! ### Units leaving service -/

/-- Whether a core can form the field of a product (R101, R131, R280). -/
def State.canForm (s : State) (c : Fin 32) (accum : Bool) (sh : Shape) (depth : Nat) : Bool :=
  let n := (s.coreFacets c).length
  s.coreArmed c &&
    (if accum then (if depth ≥ 128 then n = 4 else n ≥ 1) else if sh = .square then n = 4 else n ≥ 1)

def Product.accum (p : Product) : Bool := p.kind == .weightGrad

/-- R136: a running PRODUCT ends when too few cores remain for its split or none can form its field. DESIGN CHOICE (log 126): where no core is left for
a split unit, both rules apply, and the fault is 0x0109. -/
def State.checkProducts (s : State) : State :=
  match s.running with
  | none => s
  | some (n, j) =>
    j.flight.foldl (fun s f =>
      match f.prod with
      | none => s
      | some p =>
        let cores := (allCores.filter fun c => s.canForm c p.accum p.shape p.depth).length
        if p.settled.length = p.items || f.ending.isSome || f.faulted.isSome then s
        else if cores = 0 then s.failRef n f.ref 0x0109 .step .seqPair s.leadIx
        else if p.splitK ≥ 2 && cores < p.splitK then s.failRef n f.ref 0x0119 .step .seqPair s.leadIx
        else s) s

/-- R356: the switch of a core opens when no facet of it is in service. -/
def State.setSwitches (s : State) : State :=
  s.modPins fun p => { p with swState := BitVec.ofNat 32 (((List.finRange 32).filter fun c =>
    p.swState.getLsbD c.val && !(s.mgmt.cut.isApplied && (s.coreFacets c).isEmpty)).map fun c => 2 ^ c.val).sum }

/-- R342: with no facet left the running job ends with 0x0312. -/
def State.checkFacets (s : State) : State :=
  if s.mgmt.cut.isApplied && !s.anyFacet then s.jobFault 0x0312 .block 0 0xFFFFFFFF 0 else s

/-- The memories of a facet that leaves service or is cleared (R11, R85). -/
def Facet.blank (f : Facet) : Facet := { f with acc := [], residues := [], check := [] }

/-- R339, R340: a facet is fenced with event 0x0307, which names the command concerned where there is one (Table 17-3); its tasks return their items. -/
def State.fenceFacet (s : State) (g : Fin 128) (f : Option InFlight) (step cause : Nat) : State :=
  if !s.facetUp g then s
  else
    let s1 : State := { s with mgmt := { s.mgmt with fence := s.mgmt.fence ||| (1 <<< g.val) } }
    let s2 := s1.modFacet g fun f => { f.blank with polishing := false, immediate := false, forced := false,
                                                    failStep := if step = 0 then f.failStep else BitVec.ofNat 6 step }
    let s3 := s2.leaveService (s2.report 0x0307 false .none .facet g.val (planOf f) (labelOf f) (BitVec.ofNat 32 (step + 64 * cause)))
    ((s3.returnTasks (facetCore g) fun t => t.gang.contains (facetSub g) || (s.taskFacets (facetCore g) t).contains (facetSub g)).setSwitches.checkProducts).checkFacets

/-- All four facets of a core are fenced (Table 14-3). -/
def State.fenceCore (s : State) (c : Fin 32) (f : Option InFlight) (cause : Nat) : State :=
  (List.finRange 4).foldl (fun s x => s.fenceFacet (facetIx c x) f 0 cause) s

/-- R343, R19: a pair leaves service with the units of its four cores; its 16 facets count as fenced. With no job running, a lead pair
is replaced at once (R18). -/
def State.pairLeaves (s : State) (i : Fin 8) : State :=
  let mine (c : Fin 32) := stripeOf c == i
  let mask : Nat := ((allFacets.filter fun g => mine (facetCore g)).map fun g => 2 ^ g.val).sum
  let wasLead := s.mgmt.lead.valid && s.leadIx == i.val
  let s1 : State := { s with mgmt := { s.mgmt with fence := s.mgmt.fence ||| BitVec.ofNat 128 mask } }
  let s2 := s1.modPair i fun p => { p with state := .out, lost := true }
  let s3 := (allCores.filter mine).foldl (fun s c =>
    (s.returnTasks c fun _ => true).modCore c fun k =>
      { k with inService := false, sb := [], slots := k.slots.map fun sl => { Slot.empty with retired := sl.retired },
               hampers := Vector.replicate 16 [] }) s2
  let s4 : State := { s3 with
    transit := s3.transit.filter fun t => !mine t.core
    facets := Vector.ofFn fun g => if mine (facetCore g) then { (s3.facets[g]).blank with polishing := false } else s3.facets[g] }
  let s5 := s4.leaveService (s4.report 0x0312 false .none .seqPair i.val 0xFFFFFFFF 0 0)
  let s6 := s5.setSwitches.checkProducts
  let s7 := if wasLead then s6.jobFault 0x060C .seqPair i.val 0xFFFFFFFF 0 else s6.checkFacets
  if s7.sched.run.isNone then s7.setLead else s7

end Sys2Proof.Machine
end

