-- ==== Sys2Proof/Machine/Ecdsa.lean ====
section
/-! DEFINITION. ECDSA verification on P-384 over a SHA-384 digest (R36, boot step 6). The curve's parameters and the
verification steps are PRESUMED from FIPS 186-5 and SP 800-186, which the spec cites (log 8). -/

namespace Sys2Proof.Machine

def p384P : Nat := 2 ^ 384 - 2 ^ 128 - 2 ^ 96 + 2 ^ 32 - 1
def p384N : Nat := 0xFFFFFFFFFFFFFFFFFFFFFFFFFFFFFFFFFFFFFFFFFFFFFFFFC7634D81F4372DDF581A0DB248B0A77AECEC196ACCC52973
def p384B : Nat := 0xB3312FA7E23EE7E4988E056BE3F82D19181D9C6EFE8141120314088F5013875AC656398D8A2ED19D2A85C8EDD3EC2AEF
def p384Gx : Nat := 0xAA87CA22BE8B05378EB1C71EF320AD746E1D3B628BA79B9859F741E082542A385502F25DBF55296C3A545E3872760AB7
def p384Gy : Nat := 0x3617DE4A96262C6F5D9E98BF9292DC29F8F41DBD289A147CE9DA3113B5F0B8C00A60B1CE1D7E819D7A431D7C90EA0E5F

/-- b^e mod m, by squaring over the bits of e from the top. -/
def powMod (m b e : Nat) : Nat :=
  (((List.range (Nat.log2 e + 1)).map fun i => e.testBit i).reverse).foldl
    (fun r d => let q := r * r % m; if d then q * b % m else q) (1 % m)

/-- The inverse modulo a prime. -/
def invMod (m a : Nat) : Nat := powMod m (a % m) (m - 2)

/-- A point in Jacobian coordinates; z = 0 is the point at infinity. -/
structure JPoint where
  x : Nat
  y : Nat
  z : Nat
deriving DecidableEq, Repr

def subP (a b : Nat) : Nat := (a + (p384P - b % p384P)) % p384P

/-- Doubling on y² = x³ − 3x + b. -/
def jDouble (q : JPoint) : JPoint :=
  if q.z = 0 || q.y = 0 then ⟨1, 1, 0⟩
  else
    let zz := q.z * q.z % p384P
    let yy := q.y * q.y % p384P
    let s := 4 * q.x * yy % p384P
    let m := 3 * subP q.x zz * (q.x + zz) % p384P
    let x := subP (m * m) (2 * s)
    ⟨x, subP (m * subP s x) (8 * yy * yy), 2 * q.y * q.z % p384P⟩

def jAdd (q r : JPoint) : JPoint :=
  if q.z = 0 then r
  else if r.z = 0 then q
  else
    let z1 := q.z * q.z % p384P
    let z2 := r.z * r.z % p384P
    let u1 := q.x * z2 % p384P
    let u2 := r.x * z1 % p384P
    let s1 := q.y * z2 * r.z % p384P
    let s2 := r.y * z1 * q.z % p384P
    if u1 = u2 then (if s1 = s2 then jDouble q else ⟨1, 1, 0⟩)
    else
      let h := subP u2 u1
      let w := subP s2 s1
      let hh := h * h % p384P
      let hhh := h * hh % p384P
      let v := u1 * hh % p384P
      let x := subP (w * w) (hhh + 2 * v)
      ⟨x, subP (w * subP v x) (s1 * hhh), h * q.z * r.z % p384P⟩

/-- k times a point. -/
def jMul (k : Nat) (q : JPoint) : JPoint :=
  (((List.range (Nat.log2 k + 1)).map fun i => k.testBit i).reverse).foldl
    (fun r d => let t := jDouble r; if d then jAdd t q else t) ⟨1, 1, 0⟩

/-- Whether affine coordinates lie on the curve. -/
def onCurve (x y : Nat) : Bool :=
  x < p384P && y < p384P && y * y % p384P == (subP (x * x * x) (3 * x) + p384B) % p384P

/-- ECDSA verification: key x ‖ y, signature r ‖ s, each half 48 bytes. -/
def ecdsaVerify (key sig digest : List Byte) : Bool :=
  let x := beNat (key.take 48)
  let y := beNat (key.drop 48)
  let r := beNat (sig.take 48)
  let t := beNat (sig.drop 48)
  if !(onCurve x y && 0 < r && r < p384N && 0 < t && t < p384N) then false
  else
    let w := invMod p384N t
    let q := jAdd (jMul (beNat digest * w % p384N) ⟨p384Gx, p384Gy, 1⟩) (jMul (r * w % p384N) ⟨x, y, 1⟩)
    if q.z = 0 then false
    else
      let zi := invMod p384P q.z
      q.x * zi * zi % p384P % p384N == r

end Sys2Proof.Machine
end

