-- ==== Sys2Proof/Machine/Boot.lean ====
section
/-! DEFINITION. The boot sequence (Table 02-8): reading, authenticating and applying the cut, and its events. -/

namespace Sys2Proof.Machine

/-- A boot step is in progress. -/
def State.bootingAt (s : State) (step : Nat) : Bool :=
  s.functional && s.mgmt.boot.cutState == .booting && !s.mgmt.boot.dead && s.mgmt.boot.step.toNat == step

/-- R43: the boot stops in FAILED, with a record, and every core, ring port and pair is held idle. DESIGN CHOICE (log 150): a pair that is held idle shows as
out of service in SEQ_STATUS, and LEAD_PAIR as invalid. -/
def State.bootFail (s : State) (code : Half) : State :=
  let s1 := s.modBoot fun b => { b with cutState := .failed, fault := code }
  let s2 := s1.enter (s1.report code true .block .mgmt 0 0xFFFFFFFF 0 0)
  { s2 with pairs := s2.pairs.map fun p => { p with state := .out },
            facets := s2.facets.map fun f => { f with polishing := false, repeating := false, immediate := false, forced := false },
            ringPorts := s2.ringPorts.map fun p => { p with state := if p.state == .outOfService then .outOfService else .down },
            mgmt := { s2.mgmt with lead := { s2.mgmt.lead with valid := false } } }

def State.endBootRead (s : State) : State := s.modPort 0 fun p => { p with reqs := p.reqs.filter fun r => r.origin ≠ .boot }

/-- Steps 1 to 3: self-check, zeroing and (after a power-on or cold reset) closing the power switches, then the key-hash read.
A failed self-check leaves the block unable to report. -/
def State.bootStart (s : State) (warm selfCheck : Bool) : State :=
  let s1 := s.modBoot fun b => { Boot.reset with warm := warm, dead := !selfCheck, step := if selfCheck then 3 else 1, stopped := b.stopped }
  if !selfCheck then s1
  else
    let s2 : State := { s1 with
      cores := s1.cores.map fun c => { c with sb := [], tasks := [], hampers := Vector.replicate 16 [],
                                              slots := c.slots.map fun sl => { Slot.empty with retired := sl.retired } }
      facets := s1.facets.map Facet.blank
      transit := [] }
    let s3 := if warm then s2 else s2.modPins fun p => { p with swState := 0xFFFFFFFF }
    s3.bootRead 0 48

/-- KEY_HASH_READ_DONE (step 3). DEDUCED (log 10): a poisoned or parity-failed key-hash read takes 0x0704 as step 4's does. -/
def execKeyHashReadDone (hash : List Byte) (clean : Bool) (s : State) : Host.Outcome State Fault Refusal :=
  if !s.bootingAt 3 then .next s
  else
    let s1 := s.endBootRead.modBoot fun b => { b with keyHash := hash }
    if !clean then .next (s1.bootFail 0x0704)
    else if hash.all (· == 0x00) || hash.all (· == 0xFF) then .next (s1.bootFail 0x0702)
    else .next ((s1.modBoot fun b => { b with step := 4, unread := 0 }).bootRead 0x10000 8192)

/-! ### The header and the sections -/

def imageSize (im : List Byte) : Nat := u32 im 8

/-- Step 4: magic, format version, header size, image size, block code, least version, section count and the header's reserved
bits (Table 02-1, R36). -/
def headerOk (im : List Byte) : Bool :=
  u32 im 0 == 0x54434C53 && u16 im 4 == 3 && u16 im 6 == 128 && 320 ≤ imageSize im && imageSize im ≤ 0x100000
    && imageSize im ≤ im.length && u16 im 0xC == 0x0009 && (u8 im 0xE < 1 || (u8 im 0xE == 1 && u8 im 0xF ≤ 2))
    && u16 im 0x18 == 5 && u16 im 0x1A ≤ 1 && zeroRange im 0x1C 4

/-- The public key and the signature of the trailer (R32). -/
def imageKey (im : List Byte) : List Byte := (im.drop (imageSize im - 192)).take 96
def imageSig (im : List Byte) : List Byte := (im.drop (imageSize im - 96)).take 96
def imageBody (im : List Byte) : List Byte := im.take (imageSize im - 96)

/-- Entry of the section table: type, offset, size. -/
def sectionEntry (im : List Byte) (i : Nat) : Nat × Nat × Nat :=
  let o := 0x20 + 16 * i
  (u16 im o, u32 im (o + 4), u32 im (o + 8))

/-- Bytes of the section of a type. -/
def sectionBytes (im : List Byte) (t : Nat) : List Byte :=
  match (List.range 5).find? fun i => (sectionEntry im i).1 == t with
  | none => []
  | some i => (im.drop (sectionEntry im i).2.1).take (sectionEntry im i).2.2

/-- R31, R32: every type exactly once, aligned, inside header and trailer, without overlap; reserved words zero. -/
def sectionTableOk (im : List Byte) : Bool :=
  let es := (List.range 5).map (sectionEntry im)
  let one (i : Nat) : Bool :=
    let (t, o, z) := es.getD i (0, 0, 0)
    (es.filter fun e => e.1 == t).length == 1 && 1 ≤ t && t ≤ 5 && o % 16 == 0 && z % 16 == 0 && z != 0 && 128 ≤ o
      && o + z ≤ imageSize im - 192 && zeroRange im (0x20 + 16 * i + 2) 2 && zeroRange im (0x20 + 16 * i + 12) 4
      && (List.range 5).all fun j => i == j || (let (_, p, y) := es.getD j (0, 0, 0); o + z ≤ p || p + y ≤ o)
  (List.range 5).all one && zeroRange im 0x70 16

/-- R33 for one ring: its members, order and, with more than one member, its ports and position. -/
def ringOk (b : List Byte) (off order uid : Nat) : Bool :=
  let m := u8 b off
  1 ≤ m && m ≤ 128 && ((List.range 128).all fun i => i < m || u16 b (order + 2 * i) == 0xFFFF)
    && (m == 1 || (u8 b (off + 1) < m && u8 b (off + 2) ≤ 3 && u8 b (off + 3) ≤ 3 && u16 b (order + 2 * u8 b (off + 1)) == uid))

/-- R33: valid affinity windows are in range and do not overlap. -/
def affinityOk (b : List Byte) : Bool :=
  let at_ (i : Nat) := 0x40 + 16 * i
  let valid (i : Nat) := u8 b (at_ i + 13) == 1
  let lo (i : Nat) := u64 b (at_ i)
  let hi (i : Nat) := lo i + u32 b (at_ i + 8) * 2 ^ 30
  (List.range 32).all fun i =>
    u8 b (at_ i + 13) ≤ 1 && zeroRange b (at_ i + 14) 2
      && (!valid i || (lo i % 2 ^ 30 == 0 && 1 ≤ u32 b (at_ i + 8) && u8 b (at_ i + 12) ≤ 31
        && (List.range 32).all fun j => i == j || !valid j || hi i ≤ lo j || hi j ≤ lo i))

/-- Table 02-3. -/
def structureOk (b : List Byte) : Bool :=
  let ringPorts := (if u8 b 0x248 > 1 then [u8 b 0x24A, u8 b 0x24B] else []) ++ (if u8 b 0x24C > 1 then [u8 b 0x24E, u8 b 0x24F] else [])
  let split := (List.range 4).map fun i => u8 b (0x18 + i)
  b.length == 0x450 && [128, 120, 112, 96].contains (u8 b 0x10) && u8 b 0x10 == 128 - popcount (field b 0 16) 128
    && u8 b 0x11 % 2 == 1 && u8 b 0x11 < 128 && 250 ≤ u16 b 0x12 && u16 b 0x12 ≤ 4000 && 12 ≤ u8 b 0x14 && u8 b 0x14 ≤ 16
    && zeroRange b 0x15 3 && split.sum == 64 && split.all (4 ≤ ·) && 4 ≤ u8 b 0x1C && u8 b 0x1C ≤ 32
    && 8 ≤ u8 b 0x1D && u8 b 0x1D ≤ 64 && 16 ≤ u8 b 0x1E && u8 b 0x1E ≤ 128 && zeroRange b 0x1F 1
    && ((List.range 32).all fun p => (List.range 32).any fun i => u8 b (0x20 + i) == p) && affinityOk b
    && ringOk b 0x248 0x250 (u32 b 0x240) && ringOk b 0x24C 0x350 (u32 b 0x240)
    && ((List.range ringPorts.length).all fun i => (ringPorts.filter (· == ringPorts.getD i 9)).length == 1)

/-- The overridable fields of Table 02-4 in range; a ganging entry names an enabled shape. -/
def gangingOk (b : List Byte) (menu : Nat) : Bool := (List.range 32).all fun c => u8 b c ≤ 6 && menu.testBit (u8 b c)

def jobDefaultsOk (b : List Byte) (menu : Nat) : Bool :=
  b.length == 0x30 && gangingOk b menu && 1 ≤ u16 b 0x24 && 1 ≤ u16 b 0x26 && 1 ≤ u8 b 0x28 && u8 b 0x28 ≤ 32 && zeroRange b 0x29 7

/-- Table 02-5. -/
def operatingOk (b : List Byte) : Bool :=
  b.length == 0x30 && 1000 ≤ u16 b 0 && u16 b 0 ≤ 8000 && 20 ≤ u8 b 2 && u8 b 2 ≤ 80 && zeroRange b 3 5
    && 100 ≤ u8 b 0x28 && u8 b 0x28 ≤ 125 && zeroRange b 0x29 7

/-- R34: limits, size and padding of a firmware section. -/
def firmwareOk (b : List Byte) (textMax dataMax : Nat) : Bool :=
  let n := 16 + u32 b 4 + u32 b 8
  u32 b 4 ≤ textMax && u32 b 8 ≤ dataMax && b.length == (n + 15) / 16 * 16 && zeroRange b n (b.length - n)

/-- R35. -/
def sectionsOk (im : List Byte) : Bool :=
  let st := sectionBytes im 1
  sectionTableOk im && structureOk st && jobDefaultsOk (sectionBytes im 2) (u8 st 0x11) && operatingOk (sectionBytes im 3)
    && firmwareOk (sectionBytes im 4) (128 * 1024) (96 * 1024) && firmwareOk (sectionBytes im 5) (256 * 1024) (64 * 1024)

/-- CUT_IMAGE_READ_DONE (step 4): the image arrives in the stage buffer of C0, or at a warm boot of the lowest-numbered core in
service, and its header is checked. -/
def execCutImageReadDone (image : List Byte) (clean : Bool) (s : State) : Host.Outcome State Fault Refusal :=
  if !s.bootingAt 4 then .next s
  else
    let c : Fin 32 := if s.mgmt.boot.warm then (allCores.find? fun c => !(s.pairs[stripeOf c]).lost).getD 0 else 0
    let s1 := (s.endBootRead.modBoot fun b => { b with image := image }).modCore c fun k => { k with sb := k.sb.writeBytes 0 image }
    if !clean then .next (s1.bootFail 0x0704)
    else if !headerOk image then .next (s1.bootFail 0x0703)
    else .next (s1.modBoot fun b => { b with step := 5 })

/-- BOOT_READ_TIMEOUT: no response within 1,000,000 CCLK at step 3 or 4. -/
def execBootReadTimeout (s : State) : Host.Outcome State Fault Refusal :=
  if s.bootingAt 3 || s.bootingAt 4 then .next (s.endBootRead.bootFail 0x0701) else .next s

/-- CUT_HASH_DONE (step 5). -/
def execCutHashDone (s : State) : Host.Outcome State Fault Refusal :=
  if !s.bootingAt 5 then .next s
  else
    let im := s.mgmt.boot.image
    if sha384 (imageKey im) ≠ s.mgmt.boot.keyHash then .next (s.bootFail 0x0705)
    else .next (s.modBoot fun b => { b with step := 6, digest := sha384 (imageBody im) })

/-- The boundary of the STRUCTURE readback and the sealed digest (R37, R390). -/
def State.structDigest (s : State) : List Byte := sha384 s.mgmt.cut.structureBytes

/-- Step 8: the structure applies, and STRUCT_DIGEST reports it (R46, R390; log 113). A warm boot leaves the class S hardware and the kept RWL registers alone, but
POLISH_PERIOD takes the lower value (R387, R390). The pairs still in service start their self-checks. -/
def State.applyCut (s : State) (im : List Byte) : State :=
  let st := sectionBytes im 1
  let op := sectionBytes im 3
  let warm := s.mgmt.boot.warm
  let period := BitVec.ofNat 13 (u16 op 0)
  let rwl := if warm then
      { s.mgmt.rwl with polishPeriod := if s.mgmt.rwl.polishPeriod < period then s.mgmt.rwl.polishPeriod else period }
    else { s.mgmt.rwl with facetDisable := BitVec.ofNat 128 (field st 0 16), shapeMenu := BitVec.ofNat 7 (u8 st 0x11),
                           polishPeriod := period, structDigest := sha384 st }
  let s1 : State := { s with
    mgmt := { s.mgmt with
      rwl := rwl
      cut := { isApplied := true, structureBytes := st, jobDefaults := sectionBytes im 2, operating := op,
               mcFirmware := sectionBytes im 4, seqFirmware := sectionBytes im 5, serial := w64 im 0x10, sealOnBoot := u8 im 0x1A % 2 == 1 } }
    pairs := s.pairs.map fun p => { p with state := if p.lost then .out else .selfCheck } }
  (s1.setSwitches).modBoot fun b => { b with step := 8 }

/-- CUT_SIGNATURE_DONE (steps 6 to 8). Step 7 of a warm boot compares the digest of the new STRUCTURE with STRUCT_DIGEST, whether the cut
is sealed or not (Table 02-7, R32; log 113). -/
def execCutSignatureDone (s : State) : Host.Outcome State Fault Refusal :=
  if !s.bootingAt 6 then .next s
  else
    let im := s.mgmt.boot.image
    if !ecdsaVerify (imageKey im) (imageSig im) s.mgmt.boot.digest then .next (s.bootFail 0x0706)
    else
      let s1 := s.modBoot fun b => { b with step := 7 }
      if !sectionsOk im then .next (s1.bootFail 0x0707)
      else if s.mgmt.boot.warm && sha384 (sectionBytes im 1) ≠ s.mgmt.rwl.structDigest then .next (s1.bootFail 0x0708)
      else .next (s1.applyCut im)

/-- Ring ports that a ring uses start training after boot step 8 (R44, R373); one out of service stays so. -/
def State.startTraining (s : State) : State :=
  { s with ringPorts := Vector.ofFn fun p =>
      let r := s.ringPorts[p]
      if r.state == .outOfService then r
      else if (s.portRole p).isSome then r.startTraining (s.mgmt.pins.rpMode.getLsbD p.val) s.beatNow
      else { r with state := .down, trainGood := 0 } }

/-- SEQ_SELF_CHECK_DONE: a pair that fails leaves service as in R19; with none left the boot fails. -/
def execSeqSelfCheckDone (failed : BitVec 8) (s : State) : Host.Outcome State Fault Refusal :=
  if !s.bootingAt 8 then .next s
  else
    let s1 := (allPairs.filter fun i => failed.getLsbD i.val && !(s.pairs[i]).lost).foldl (fun s i => s.pairLeaves i) s
    let s2 : State := { s1 with
      pairs := s1.pairs.map fun p => { p with state := if p.lost then .out else .running }
      cores := Vector.ofFn fun c => { s1.cores[c] with inService := !(s1.pairs[stripeOf c]).lost } }
    if s2.pairs.toList.all (·.lost) then .next (s2.bootFail 0x0709)
    else
      let s3 : State := { s2 with cores := Vector.ofFn fun c =>
        { s2.cores[c] with hampers := s2.freshQueues c, depth := u8 s2.mgmt.cut.jobDefaults 0x28 } }
      .next (s3.setLead.startTraining.modBoot fun b => { b with step := 9, beats := 0, beatBad := false })

/-- BOOT_BEAT_TIMEOUT: no increment within 16 declared periods at step 9. -/
def execBootBeatTimeout (s : State) : Host.Outcome State Fault Refusal :=
  if s.bootingAt 9 then .next (s.bootFail 0x070B) else .next s

/-- An interval in CCLK (1 ns each) lies within ±2 % of beat_period_ns. -/
def State.onPeriod (s : State) (interval : Nat) : Bool :=
  let p := s.beatPeriod
  50 * interval ≤ 51 * p && 49 * p ≤ 50 * interval

/-- BOOT_BEAT_CHECK (step 9), part of BEAT_STROBE: three increments, both intervals on period. -/
def State.bootBeat (s : State) (interval : Nat) : State :=
  if !s.bootingAt 9 then s
  else
    let b := s.mgmt.boot
    let bad := b.beatBad || (b.beats ≥ 1 && !s.onPeriod interval)
    if b.beats < 2 then s.modBoot fun b => { b with beats := b.beats + 1, beatBad := bad }
    else if bad then s.bootFail 0x070A
    else s.modBoot fun b => { b with step := 10, beats := 3 }

/-- R37: sealing. STRUCT_DIGEST holds the digest since the cut applied (log 113). -/
def State.sealCut (s : State) : State :=
  { s with mgmt := { s.mgmt with rwl := { s.mgmt.rwl with isSealed := true, structDigest := s.structDigest } } }

/-- Step 11: READY, admission open, irq_event; the polish cycles count from this beat (R337). -/
def State.enterReady (s : State) : State :=
  let s1 := ((s.modBoot fun b => { b with cutState := .ready, step := 11 }).modBeat fun b => { b with readyBeat := b.observed }).raiseIrq 8
  { s1 with facets := s1.facets.map fun f => { f with polished := false } }

/-- BOOT_POLISH_DONE (steps 10 and 11): failing facets are fenced; the others have completed a polish (R350). The cut seals or stays
APPLIED. DESIGN CHOICE (log 114): a warm boot keeps the seal as it stands (Table 02-7, R44), so one from APPLIED stays APPLIED also where its
new header has seal_on_boot 1. -/
def execBootPolishDone (failing : List (Fin 128 × BitVec 6)) (s : State) : Host.Outcome State Fault Refusal :=
  if !s.bootingAt 10 then .next s
  else
    let bad (g : Fin 128) := failing.any fun f => f.1 == g
    let tick (g : Fin 128) (f : Facet) : Facet :=
      if s.facetUp g && !bad g then
        { f with counters := { f.counters with polish := satInc f.counters.polish }, polishBeat := s.beatNow }
      else f
    let done : BitVec 128 := BitVec.ofNat 128 (((allFacets.filter fun g => s.facetUp g && !bad g).map fun g => 2 ^ g.val).sum)
    let s0 : State := { s with
      facets := Vector.ofFn fun g => tick g s.facets[g]
      mgmt := { s.mgmt with polish := { s.mgmt.polish with owed := s.mgmt.polish.owed &&& ~~~done } } }
    let s1 := failing.foldl (fun s f => s.fenceFacet f.1 none f.2.toNat 0) s0
    if !s1.anyFacet then .next (s1.bootFail 0x070C)
    else if s1.mgmt.boot.warm && s1.mgmt.rwl.isSealed then .next s1.enterReady
    else if !s1.mgmt.boot.warm && s1.mgmt.cut.sealOnBoot then .next s1.sealCut.enterReady
    else .next (s1.modBoot fun b => { b with cutState := .applied, step := 11 })

end Sys2Proof.Machine
end

