-- ==== Sys2Proof/Machine/Flags.lean ====
section
/-! DEFINITION. The flags and outputs that the block computes from its state: interrupts (R380, R393), service outputs (R341),
RELIABILITY_STATUS (R350), array duty (R346) and the status words of chapter 16. -/

namespace Sys2Proof.Machine

/-! ### Outputs (R380, R383, Table 15-13) -/

/-- Outputs are 0 while the block is held in cold reset or a wrapper instruction other than WS_BYPASS is loaded. -/
def State.outputsLive (s : State) : Bool := s.mgmt.pins.coldN && s.mgmt.pins.wrapper == .bypass

def State.irqGroup (s : State) (mask : Word) : Bool := s.outputsLive && (s.mgmt.irqStatus &&& s.mgmt.irqEnable &&& mask) != 0

def State.irqJob (s : State) : Bool := s.irqGroup 0x00000003
def State.irqEvent (s : State) : Bool := s.irqGroup 0x00000300
def State.irqFault (s : State) : Bool := s.irqGroup 0x001F0000
def State.svcDegradedOut (s : State) : Bool := s.outputsLive && s.mgmt.pins.svcDegraded
def State.svcReplaceOut (s : State) : Bool := s.outputsLive && s.mgmt.pins.svcReplace
def State.tripOut (s : State) : Bool := s.outputsLive && s.mgmt.pins.trip

/-- The bits that IRQ_STATUS and IRQ_ENABLE have (Table 16-11). -/
def irqMask : Word := 0x001F0303

/-! ### RELIABILITY_STATUS (Table 14-6, R350) -/

/-- Facets in service as a mask. -/
def State.facetsUp (s : State) : BitVec 128 := BitVec.ofNat 128 ((allFacets.filter s.facetUp).map fun g => 2 ^ g.val).sum

/-- Some facet in service has not completed a polish since polish was enabled again. -/
def State.polishPending (s : State) : Bool := !s.mgmt.polish.disable && (s.mgmt.polish.owed &&& s.facetsUp) != 0

def State.guaranteeVoid (s : State) : Bool :=
  s.mgmt.polish.disable || s.polishPending || s.mgmt.polish.tripSeen || s.mgmt.polish.droopExceeded

/-- Packs fields of a register: value and lowest bit. -/
def pack (l : List (Nat × Nat)) : Nat := (l.map fun x => x.1 * 2 ^ x.2).sum

def State.reliabilityStatus (s : State) : Nat :=
  pack [(boolNat s.guaranteeVoid, 0), (boolNat s.mgmt.polish.disable, 1), (boolNat s.polishPending, 2),
    (boolNat s.mgmt.polish.tripSeen, 3), (boolNat s.mgmt.polish.droopExceeded, 4), (boolNat s.mgmt.pins.svcDegraded, 5),
    (boolNat s.mgmt.pins.svcReplace, 6), (s.dutyInForce, 8), (s.mgmt.pins.throttle.toNat, 12)]

/-! ### Job-dependent values in force (R308, R250, R348) -/

/-- prefetch_depth_max in force: the running job's override, else the cut's. -/
def State.depthMax (s : State) : Nat :=
  match s.running with
  | some (_, j) => s.classJ j.desc 4 0x28 1
  | none => field s.mgmt.cut.jobDefaults 0x28 1

/-- Prefetch depth of a core in force; an override below prefetch_min governs (R345). -/
def State.depthOf (s : State) (c : Fin 32) : Nat := Nat.min s.cores[c].depth s.depthMax

/-- Starvation policy of a core in force: true for BUBBLE. -/
def State.bubbleOf (s : State) (c : Fin 32) : Bool :=
  match s.running with
  | some (_, j) => (s.classJ j.desc 1 0x20 4).testBit c.val
  | none => (field s.mgmt.cut.jobDefaults 0x20 4).testBit c.val

def State.sliceBeats (s : State) (j : JobDesc) : Nat := s.classJ j 3 0x26 2
def State.fillWait (s : State) (j : JobDesc) : Nat := s.classJ j 2 0x24 2
def State.gangPref (s : State) (j : JobDesc) (c : Fin 32) : Nat := s.classJ j 0 c.val 1

/-! ### Status words of chapter 16 -/

def CutState.code : CutState → Nat
  | .booting => 0
  | .applied => 1
  | .ready => 2
  | .failed => 3

/-- Table 16-3. -/
def State.cutStatus (s : State) : Nat :=
  pack [(s.mgmt.boot.cutState.code, 0), (s.mgmt.boot.step.toNat, 4), (boolNat s.mgmt.rwl.isSealed, 8), (s.mgmt.boot.fault.toNat, 16)]

/-- Table 16-5. -/
def State.resetCause (s : State) : Nat :=
  let c := s.mgmt.cause
  pack [(c.kind.toNat, 0), (boolNat c.coldByRegister, 2), (boolNat c.jobByFault, 3), (c.count.toNat, 16)]

def isGrade (n : Nat) : Bool := n == 128 || n == 120 || n == 112 || n == 96

/-- GRADE (Table 16-2); 0 until a cut is applied. -/
def State.gradeNow (s : State) : Nat := 128 - popcount s.mgmt.rwl.facetDisable.toNat 128

def State.gradeWord (s : State) : Nat :=
  if s.mgmt.cut.isApplied then pack [(s.gradeNow, 0), (boolNat (isGrade s.gradeNow), 8)] else 0

/-- Table 16-7. -/
def State.beatStatus (s : State) : Nat :=
  let b := s.mgmt.beat
  pack [(boolNat b.stalled, 0), (boolNat b.running, 1), (boolNat b.jumped, 2), (boolNat b.ignored, 3), (boolNat b.offPeriod, 4)]

/-- Table 16-8. -/
def State.leadWord (s : State) : Nat :=
  let up (i : Fin 8) := (s.pairs[i]).state == .running || (s.pairs[i]).state == .halted
  pack [(s.mgmt.lead.pair.toNat, 0), (boolNat s.mgmt.lead.valid, 3), (((allPairs.filter up).map fun i => 2 ^ i.val).sum, 8)]

/-- Table 16-9. -/
def State.ringCfg (s : State) (r : Nat) : Nat :=
  if !s.mgmt.cut.isApplied then 0
  else
    let inJob := match s.running with | some (_, j) => if r = 0 then j.desc.ringA else j.desc.ringB | none => false
    pack [(s.ringMembers r, 0), (s.ringPos r % 128, 8), (s.st (0x24A + 4 * r) 1 % 4, 16), (s.st (0x24B + 4 * r) 1 % 4, 18),
      (boolNat (s.ringUp r), 20), (boolNat inJob, 21)]

/-- Table 16-10. -/
def Channel.statusWord (c : Channel) : Nat :=
  pack [(c.lastSeq.toNat, 0), (boolNat c.active.isSome, 16), (Nat.min c.staging.length 64, 17), (boolNat c.stepAbandoned, 24)]

/-- Table 16-12. -/
def State.runningWord (s : State) : Nat :=
  match s.sched.run with
  | none => pack [(boolNat s.sched.switch.isSome, 7)]
  | some n =>
    match s.jobs[n] with
    | none => 0
    | some j => pack [(n.val, 0), (1, 5), (boolNat j.desc.latency, 6), (boolNat s.sched.switch.isSome, 7), (j.client.val, 8)]

def JobState.code : JobState → Nat
  | .admitted => 1
  | .running => 2
  | .suspended => 3
  | .ending => 4

/-- Table 16-13. -/
def Job.infoWord (j : Job) : Nat :=
  pack [(j.state.code, 0), (boolNat j.desc.latency, 3), (boolNat j.desc.exclusive, 4), (j.client.val, 8), (j.saves.toNat % 65536, 16)]

/-- A job counts as admitted until its completion record is written (R309). -/
def State.isAdmitted (s : State) (n : Fin 32) : Bool := match s.jobs[n] with | some j => !j.ended | none => false

def jobMap (p : Fin 32 → Bool) : Nat := (((List.finRange 32).filter p).map fun n => 2 ^ n.val).sum

def State.isSuspended (s : State) (n : Fin 32) : Bool :=
  match s.jobs[n] with | some j => j.state == .suspended && j.saved.isSome | none => false

def Shape.code : Shape → Nat
  | .solo => 0
  | .broadcast => 1
  | .deep => 2
  | .wide => 3
  | .square => 4
  | .split2 => 5
  | .split4 => 6

/-- Table 16-16. -/
def State.coreStatus (s : State) (c : Fin 32) : Nat :=
  let k := s.cores[c]
  pack [(((s.coreFacets c).map fun f => 2 ^ f.val).sum, 0), (boolNat k.inService, 4), (boolNat (s.mgmt.pins.swState.getLsbD c.val), 5),
    (boolNat (s.bubbleOf c), 6), (k.shape.toNat, 8), (if k.inService then s.depthOf c else 0, 16)]

/-- Table 16-17; a facet that the cut disables reads 2 (R395). -/
def State.facetStatus (s : State) (g : Fin 128) : Nat :=
  if s.facetDisabled g then 2
  else
    let f := s.facets[g]
    pack [(boolNat (s.facetUp g), 0), (boolNat (s.facetFenced g), 2), (boolNat f.polished, 3), (boolNat f.polishing, 4),
      (f.failStep.toNat, 8)]

def PortState.code : PortState → Nat
  | .down => 0
  | .training => 1
  | .up => 2
  | .outOfService => 3

/-- Table 16-20. -/
def State.ringPortStatus (s : State) (p : Fin 4) : Nat :=
  let r := s.ringPorts[p]
  let (ring, side, used) : Nat × Nat × Nat := match s.portRole p with | some (a, next) => (a, boolNat (!next), 1) | none => (0, 0, 0)
  pack [(r.state.code, 0), (boolNat (s.mgmt.pins.rpMode.getLsbD p.val), 2), (ring, 3), (side, 4), (used, 5), (r.replays.toNat, 16)]

/-- Table 16-21. -/
def TilePort.statusWord (p : TilePort) : Nat :=
  let n := (p.reqs.filter fun q => q.tag.isSome).length
  let k := (p.reqs.filter fun q => q.tag.isSome && q.settle).length
  pack [(n, 0), (k, 9), (boolNat (p.reqs.any fun q => q.timedOut), 17)]

def PairState.code : PairState → Nat
  | .out => 0
  | .running => 1
  | .halted => 2
  | .selfCheck => 3

/-- Table 16-23. -/
def State.seqStatus (s : State) (i : Fin 8) : Nat :=
  let lead := s.mgmt.lead.valid && s.leadIx == i.val
  let mine (k : Nat) : Bool := if h : i.val + 8 * k < 32 then (s.cores[(⟨i.val + 8 * k, h⟩ : Fin 32)]).inService else false
  pack [((s.pairs[i]).state.code, 0), (boolNat lead, 2), ((((List.range 4).filter mine).map fun k => 2 ^ k).sum, 8)]

/-- Sequence number of the oldest record held (R397). -/
def Log.oldest (l : Log) : Word := l.count - BitVec.ofNat 32 l.records.length

/-! ### The inclusion record (Table 17-3) -/

def Scope.code : Scope → Nat
  | .none => 0
  | .issue => 1
  | .cmd => 2
  | .step => 3
  | .ring => 4
  | .seq => 5
  | .entry => 6
  | .job => 7
  | .block => 8

def LogRecord.bytes (x : LogRecord) : List Byte :=
  let r := x.report
  leBytes 4 x.seq.toNat ++ leBytes 2 r.code.toNat ++ leBytes 1 r.scope.code ++ leBytes 1 (boolNat r.fault + 2 * boolNat r.svc)
    ++ leBytes 8 r.beat.toNat ++ leBytes 4 r.planIndex.toNat ++ leBytes 4 r.label.toNat
    ++ leBytes 2 (r.unitKind.code * 4096 + r.unitIndex % 4096)
    ++ leBytes 1 (match r.job with | some n => n % 32 + 32 | none => 0) ++ leBytes 1 r.client.toNat ++ leBytes 4 r.detail.toNat

end Sys2Proof.Machine
end

