-- ==== Sys2Proof/Machine/Link.lean ====
section
/-! DEFINITION. The Haldyth ring link (R367 to R374): flits, credits, go-back-N, training and the down mask. -/

namespace Sys2Proof.Machine

/-! ### Flits (Table 15-9) -/

def flitType (f : List Byte) : Nat := u8 f 0
def flitSeq (f : List Byte) : Half := BitVec.ofNat 16 (u16 f 2)
def flitAck (f : List Byte) : Half := BitVec.ofNat 16 (u16 f 4)
def flitPayload (f : List Byte) : List Byte := (f.drop 10).take 240

/-- R371: a good CRC, a defined type and zero reserved fields; seq is 0 outside DATA, the payload 0 in a NAK. -/
def flitOk (f : List Byte) : Bool :=
  f.length == 256 && w32 f 0xFC == crc32c (f.take 0xFC) && u8 f 0 ≤ 3 && u8 f 1 ≤ 1 && zeroRange f 0xFA 2
    && (u8 f 0 == 1 || u16 f 2 == 0) && (u8 f 0 != 2 || zeroRange f 10 240)

/-- A flit as sent by a port. -/
def RingPort.flit (p : RingPort) (ty : Nat) (escape : Bool) (seq : Half) (payload : List Byte) : List Byte :=
  let pad := payload ++ List.replicate (240 - payload.length) 0
  let b := leBytes 1 ty ++ leBytes 1 (boolNat escape) ++ leBytes 2 seq.toNat ++ leBytes 2 p.rxSeq.toNat
    ++ leBytes 2 p.freedNorm.toNat ++ leBytes 2 p.freedEsc.toNat ++ pad.take 240 ++ leBytes 2 0
  b ++ leBytes 4 (crc32c b).toNat

/-- The port sends a flit; what it has sent is kept for 1,024 flits (log 161). -/
def RingPort.send (p : RingPort) (f : List Byte) : RingPort :=
  let l := p.sent ++ [f]
  { p with sent := l.drop (l.length - 1024) }

/-! ### Lanes and FDI (R368, R369) -/

/-- The bytes of a received flit: word w of its 32 words travels on lane w mod 16 in FCLK w div 16 (R368). -/
def rxBytes (x : RxFlit) : List Byte := (x.words.flatten.map fun w => leBytes 8 w.toNat).flatten

/-- The words that carry a flit, lane by lane, in each of its FCLK (R368). -/
def flitWords (f : List Byte) : List (List DWord) := (List.range 2).map fun t => (List.range 16).map fun l => w64 f (8 * (16 * t + l))

/-- The alignment word of a lane (R373). -/
def alignWord (l : Nat) : DWord := 0x4859544800000000 + BitVec.ofNat 64 l

/-- rp_tx_data in an FCLK: lane l at bits [64l+63:64l] (Table 15-8). -/
def laneData (l : List DWord) : BitVec 1024 := BitVec.ofNat 1024 (l.zipIdx.map fun x => x.1.toNat * 2 ^ (64 * x.2)).sum

/-- rp_tx_data in FCLK `t` of a flit: 0 while the SerDes is held in reset; the alignment words until the lanes are aligned; then the flit last sent
(Table 15-15, R368, R373). -/
def RingPort.txData (p : RingPort) (t : Nat) : BitVec 1024 :=
  if !p.serdesRstN then 0
  else if p.state == .training && !p.phyUp then laneData ((List.range 16).map alignWord)
  else match p.sent.getLast? with
    | some f => laneData ((flitWords f).getD (t % 2) [])
    | none => 0

/-- rp_lp_data in FCLK `t` of a flit, which rp_lp_irdy and rp_lp_valid accompany, all 0 until the adapter is Active and a flit is sent (Table 15-15,
R369). -/
def RingPort.lpData (p : RingPort) (t : Nat) : List Byte :=
  match p.sent.getLast? with
  | some f => (f.drop (128 * (t % 2))).take 128
  | none => List.replicate 128 0

def RingPort.lpValid (p : RingPort) : Bool := p.phyUp && !p.sent.isEmpty
def RingPort.lpIrdy (p : RingPort) : Bool := p.lpValid

/-- The first bit of a lane's words, in the order of their arrival, at which its alignment word stands (R373). -/
def alignAt (l : Nat) (words : List DWord) : Option Nat :=
  let n := words.foldr (fun w a => w.toNat + 2 ^ 64 * a) 0
  (List.range (64 * words.length - 63)).find? fun i => n / 2 ^ i % 2 ^ 64 = (alignWord l).toNat

/-- The delay of each lane that brings all word boundaries to those of the latest lane: none where a lane shows no alignment word, or where the skew is more
than 16 FCLK (R368). -/
def laneDelays (lanes : List (List DWord)) : Option (List Nat) :=
  let found := lanes.zipIdx.map fun x => alignAt x.2 x.1
  if lanes.length ≠ 16 || found.any (·.isNone) then none
  else
    let at_ := found.map (·.getD 0)
    let last := at_.foldl Nat.max 0
    if at_.any fun a => last - a > 64 * 16 then none else some (at_.map (last - ·))

/-- Free normal and escape credits (R371). -/
def RingPort.normFree (p : RingPort) : Nat := 2048 - (p.spentNorm - p.peerNorm).toNat
def RingPort.escFree (p : RingPort) (esc : Nat) : Nat := esc - (p.spentEsc - p.peerEsc).toNat

/-- Sends one waiting payload if the replay buffer of 512 and a credit allow it: a normal credit first, an escape credit only
for finals and relayed flits. -/
def RingPort.sendOne (p : RingPort) (esc : Nat) : Option RingPort :=
  match p.toSend with
  | [] => none
  | x :: rest =>
    if p.unacked.length ≥ 512 then none
    else if p.normFree > 0 then
      let y := { x with escape := false }
      some ({ p with toSend := rest, unacked := p.unacked ++ [(p.txSeq, y)], txSeq := p.txSeq + 1, spentNorm := p.spentNorm + 1 }.send
        (p.flit 1 false p.txSeq x.bytes))
    else if x.escape && p.escFree esc > 0 then
      some ({ p with toSend := rest, unacked := p.unacked ++ [(p.txSeq, x)], txSeq := p.txSeq + 1, spentEsc := p.spentEsc + 1 }.send
        (p.flit 1 true p.txSeq x.bytes))
    else none

def RingPort.sendAll (esc : Nat) : Nat → RingPort → RingPort
  | 0, p => p
  | n + 1, p => match p.sendOne esc with | none => p | some q => RingPort.sendAll esc n q

/-- Sends what the credits of an up port allow. -/
def State.sendPort (s : State) (p : Fin 4) : State :=
  if (s.ringPorts[p]).state != .up then s
  else s.modRing p fun r => RingPort.sendAll s.ringEscape r.toSend.length r

/-- The flits of `a` up to `b`, modulo 2^16, lie at most 512 ahead. -/
def seqBefore (a b : Half) : Bool := (b - a).toNat ≤ 512 && a != b

/-- Ack and credit fields are cumulative; acknowledged flits leave the replay buffer. -/
def RingPort.takeAck (p : RingPort) (f : List Byte) : RingPort :=
  let a := flitAck f
  let left := p.unacked.filter fun u => !seqBefore u.1 a
  { p with unacked := left, noProgress := if left.length < p.unacked.length then 0 else p.noProgress,
           peerNorm := BitVec.ofNat 16 (u16 f 6), peerEsc := BitVec.ofNat 16 (u16 f 8) }

/-! ### Up and down (R374) -/

/-- The link state as training starts it anew: credits and sequence numbers of the retrained link. -/
def RingPort.relink (p : RingPort) : RingPort :=
  { p with txSeq := 0, rxSeq := 0, peerNorm := 0, peerEsc := 0, spentNorm := 0, spentEsc := 0, freedNorm := 0,
           freedEsc := 0, unacked := [], toSend := [], nakSent := false, noProgress := 0, trainGood := 0 }

/-- svc_degraded follows the link condition (R341). -/
def State.updateDegraded (s : State) : State := s.modPins fun p => { p with svcDegraded := s.unitOut || s.linkOut }

/-- A port goes down because of its link: event 0x040C, and svc_degraded while it stays down. -/
def State.portDown (s : State) (p : Fin 4) : State :=
  if (s.ringPorts[p]).state != .up then s
  else
    let s1 := s.modRing p fun r => { r.relink with state := .down, downs := satInc r.downs, ucieRate := 0 }
    let s2 := s1.updateDegraded
    let r := s2.report 0x040C false .none .ringPort p.val 0xFFFFFFFF 0 0
    s2.enter { r with svc := s.mgmt.pins.svcDegraded != s2.mgmt.pins.svcDegraded }

/-- A port comes up; event 0x040D only when it had been up since the last reset (R374). DEDUCED (log 11): its receive buffer
starts empty, as its credits do. -/
def State.portUp (s : State) (p : Fin 4) (uid : Word) : State :=
  let was := (s.ringPorts[p]).everUp
  let s0 := match s.chanOn p false with
    | none => s
    | some k => s.modChan k fun c =>
        { c with
          rx := []
          discard := none
          passing := 0
          active := c.active.map fun (a : Active) => { a with header := none, flits := 0 } }
  let s1 := s0.modRing p fun r => { r.relink with state := .up, everUp := true, peerUid := uid }
  let s2 := s1.updateDegraded
  if was then
    let r := s2.report 0x040D false .none .ringPort p.val 0xFFFFFFFF 0 0
    s2.enter { r with svc := s.mgmt.pins.svcDegraded != s2.mgmt.pins.svcDegraded }
  else s2

/-- Go-back-N: the sends of all unacknowledged flits again, from the first on, in order. -/
def RingPort.replayAll (p : RingPort) : RingPort := p.unacked.foldl (fun r x => r.send (r.flit 1 x.2.escape x.1 x.2.bytes)) p

/-- A replay from the first unacknowledged flit; sixteen replays without ack progress take the port down. -/
def State.replayPort (s : State) (p : Fin 4) : State :=
  let r := s.ringPorts[p]
  if r.unacked.isEmpty then s
  else
    let s1 := s.modRing p fun r => { r.replayAll with replays := satIncH r.replays, noProgress := r.noProgress + 1 }
    if r.noProgress + 1 ≥ 16 then s1.portDown p else s1

/-- The first flit a receiver discards brings one NAK whose ack is the expected seq; one that it discards later brings another once 1,024 FCLK have
passed. -/
def State.sendNak (s : State) (p : Fin 4) (late : Bool) : State :=
  if (s.ringPorts[p]).nakSent && !late then s
  else s.modRing p fun r => { r with nakSent := true, naks := satInc r.naks }.send (r.flit 2 false 0 [])

/-- A flit discarded under R371, counted in RING_CRC_COUNT. -/
def State.dropFlit (s : State) (p : Fin 4) (late : Bool) : State := (s.modRing p fun r => { r with crcs := satInc r.crcs }).sendNak p late

/-! ### Training (R373) -/

/-- Payload of this block's TRAIN flits. -/
def State.trainPayload (s : State) (p : Fin 4) : List Byte :=
  match s.portRole p with
  | none => []
  | some (r, next) =>
    leBytes 4 (s.st 0x244 4) ++ leBytes 4 (s.st 0x240 4) ++ leBytes 1 r ++ leBytes 1 (s.ringPos r) ++ leBytes 1 (s.ringMembers r)
      ++ leBytes 1 (boolNat (!next))

/-- Identity check: ring_id and letter equal this block's, the sender stands where the ring order puts it, sides complementary. -/
def State.trainOk (s : State) (p : Fin 4) (pl : List Byte) : Bool :=
  match s.portRole p with
  | none => false
  | some (r, next) =>
    let m := s.ringMembers r
    let want := if next then (s.ringPos r + 1) % m else (s.ringPos r + m - 1) % m
    u32 pl 0 == s.st 0x244 4 && u8 pl 8 == r && u32 pl 4 == s.ringOrder r want && u8 pl 11 == boolNat next

/-- The link works once boot step 8 is done (R44, R373), and not in FAILED (R43). -/
def State.linkReady (s : State) : Bool :=
  s.functional && s.mgmt.cut.isApplied && s.mgmt.boot.cutState != .failed
    && (s.mgmt.boot.cutState != .booting || 9 ≤ s.mgmt.boot.step.toNat)

/-- What a port sees of its physical layer: all lanes locked, with the delays that align them, or the adapter Active (R369, R373). -/
def RingPort.seePhy (p : RingPort) (ucie : Bool) (x : PhyUp) : RingPort :=
  if ucie then { p with fdi := { state := p.lpStateReq, inband := x.inband, valid := x.valid, streaming := x.streaming, raw := x.raw }, ucieRate := x.rate }
  else { p with laneLock := 0xFFFF, laneDelay := (laneDelays x.lanes).getD [], ucieRate := 0 }

/-- The link can carry flits: the lanes are aligned, or the adapter carries the Streaming protocol in the Raw Format (R369). -/
def phyFits (x : PhyUp) (ucie : Bool) : Bool := if ucie then x.inband && x.valid && x.streaming && x.raw else (laneDelays x.lanes).isSome

/-- RING_PHY_UP: lane lock and alignment or FDI Active; the identity exchange begins. The trained rate is shown in UCIe mode only (R369). -/
def execRingPhyUp (port : Fin 4) (phy : PhyUp) (s : State) : Host.Outcome State Fault Refusal :=
  let ucie := s.mgmt.pins.rpMode.getLsbD port.val
  if !s.linkReady || (s.ringPorts[port]).state != .training then .next s
  else if !phyFits phy ucie then .next (s.modRing port fun r => { r.seePhy ucie phy with trainGood := 0, phyUp := false })
  else .next (s.modRing port fun r => { r.seePhy ucie phy with trainGood := 0, phyUp := true }.send (r.flit 3 false 0 (s.trainPayload port)))

/-- RING_TRAIN: sixteen consecutive good TRAIN flits in both directions bring the port up; a mismatch records 0x040E, and the
port stays down until its next attempt. No flit comes before the physical layer is up. -/
def execRingTrain (port : Fin 4) (rx : RxFlit) (peerPassed : Bool) (s : State) : Host.Outcome State Fault Refusal :=
  let flit := rxBytes rx
  if !s.linkReady || (s.ringPorts[port]).state != .training || !(s.ringPorts[port]).phyUp then .next s
  else if !flitOk flit then .next (s.modRing port fun r => { r with crcs := satInc r.crcs, trainGood := 0 })
  else if flitType flit != 3 then .next s
  else if !s.trainOk port (flitPayload flit) then
    let s1 := s.modRing port fun r => { r with state := .down, trainGood := 0, trainFails := satInc r.trainFails }
    .next (s1.event 0x040E .ringPort port.val 0)
  else
    let good := (s.ringPorts[port]).trainGood + 1
    if good ≥ 16 && peerPassed then .next (s.portUp port (w32 (flitPayload flit) 4))
    else .next (s.modRing port fun r => { r with trainGood := good })

/-- RING_TRAIN_RETRY: every 64 beats a port that is down and in service trains again (R373); not while the beat input is stalled (R377). -/
def execRingTrainRetry (port : Fin 4) (s : State) : Host.Outcome State Fault Refusal :=
  let r := s.ringPorts[port]
  if s.linkReady && r.state == .down && (s.portRole port).isSome && !s.mgmt.beat.stalled && s.reached (r.lastTry + 64) then
    .next (s.modRing port fun r => r.startTraining (s.mgmt.pins.rpMode.getLsbD port.val) s.beatNow)
  else .next s

/-- A lane has lost its lock, or the adapter has left Active; which lane, or for which state, is a free value (log 162). -/
def RingPort.losePhy (p : RingPort) (ucie : Bool) (free : Word) : RingPort :=
  if ucie then
    let st := BitVec.ofNat 4 free.toNat
    { p with fdi := { p.fdi with state := if st = 1 then 0 else st }, phyUp := false }
  else { p with laneLock := p.laneLock &&& ~~~(1 <<< (free.toNat % 16) : BitVec 16), phyUp := false }

/-- RING_PORT_DOWN: a lane loses lock, or the adapter leaves Active. -/
def execRingPortDown (port : Fin 4) (s : State) : Host.Outcome State Fault Refusal :=
  if !s.linkReady then .next s
  else
    let s1 := s.modRing port fun r => r.losePhy (s.mgmt.pins.rpMode.getLsbD port.val) (Config.freeWord s.fresh)
    .next (({ s1 with fresh := s1.fresh + 1 } : State).portDown port)

/-- RING_REPLAY_TIMEOUT: 2,048 FCLK without ack progress while flits are unacknowledged. -/
def execRingReplayTimeout (port : Fin 4) (s : State) : Host.Outcome State Fault Refusal :=
  if s.linkReady && (s.ringPorts[port]).state == .up then .next (s.replayPort port) else .next s

/-! ### IDLE flits and the down mask (R374) -/

/-- IDLE_INSERT: one IDLE in every 4,096 flit slots carries the mask that this port relays. -/
def execIdleInsert (port : Fin 4) (s : State) : Host.Outcome State Fault Refusal :=
  match s.portRole port with
  | none => .next s
  | some (r, _) =>
    if s.linkReady && (s.ringPorts[port]).state == .up then
      let m := s.ringMask r
      .next (s.modRing port fun p => { p with downMask := m }.send (p.flit 0 false 0 (leBytes 16 m.toNat)))
    else .next s

/-- DOWN_MASK_EXPIRY: masks heard more than 8 beats ago no longer count. -/
def execDownMaskExpiry (port : Fin 4) (s : State) : Host.Outcome State Fault Refusal :=
  if s.functional then .next (s.modRing port fun p => { p with heard := p.recent s.beatNow }) else .next s

end Sys2Proof.Machine
end

