-- ==== Sys2Proof/Machine/Channel.lean ====
section
/-! DEFINITION. The channel engines of the rings (chapter 09): laps and segments, the adders, decisions, relaying, broken rings,
and the flits that reach them. -/

namespace Sys2Proof.Machine

/-- S of R209. -/
def segFull : Nat := 61440

/-- Segment length of lap `lap` (R209): S, or in the last lap ceil(R / (60·m)) × 60. -/
def Reduce.segLen (r : Reduce) (lap : Nat) : Nat :=
  let left := r.elements - lap * r.members * segFull
  if left > r.members * segFull then segFull else (left + 60 * r.members - 1) / (60 * r.members) * 60

/-- First element and number of elements of segment `s` of lap `lap`. -/
def Reduce.seg (r : Reduce) (lap s : Nat) : Nat × Nat :=
  let a := lap * r.members * segFull + s * r.segLen lap
  (a, Nat.min (r.segLen lap) (r.elements - a))

def Reduce.laps (r : Reduce) : Nat := (r.elements + r.members * segFull - 1) / (r.members * segFull)

/-- The pieces of a run of elements in the extents (R205): source base, destination base, first index and count. -/
def extentRuns : List (Nat × Nat × Nat) → Nat → Nat → List (Nat × Nat × Nat × Nat)
  | [], _, _ => []
  | (src, dst, c) :: r, a, n =>
    if n = 0 then []
    else if a ≥ c then extentRuns r (a - c) n
    else (src, dst, a, Nat.min n (c - a)) :: extentRuns r 0 (n - (c - a))

/-- R212: this block's own contribution to a run of elements as FP32, and whether its read returned poison; `bad` lists beats that came back
unusable. -/
def State.ownValues (s : State) (r : Reduce) (bad : List Nat) (a n : Nat) : List Word × Bool :=
  let w := if r.wide then 8 else 4
  let rs := extentRuns r.extents a n
  let one (x : Nat × Nat × Nat × Nat) : List Word :=
    let bs := s.near (x.1 + w * x.2.2.1) (w * x.2.2.2)
    (List.range x.2.2.2).map fun i => if r.wide then accRead (accOf (w64 bs (8 * i))) else w32 bs (4 * i)
  ((rs.map one).flatten, rs.any fun x =>
    let a := x.1 + w * x.2.2.1
    s.ext.poisoned false a (w * x.2.2.2) || (beatsOf a (w * x.2.2.2)).any bad.contains)

/-- The read requests for a run of elements of the own contribution (R212). -/
def State.readOwn (s : State) (k : Fin 4) (r : Reduce) (a n : Nat) : State :=
  let w := if r.wide then 8 else 4
  (extentRuns r.extents a n).foldl (fun s x => s.extFetch 0 (.bucket k) false (x.1 + w * x.2.2.1) (w * x.2.2.2) []) s

/-- Result writes, as FP32 and as settle writes (R212). -/
def State.writeResults (s : State) (k : Fin 4) (r : Reduce) (a : Nat) (vals : List Word) : State :=
  ((extentRuns r.extents a vals.length).foldl
    (fun (acc : State × List Word) x =>
      let (s, vs) := acc
      let bs := ((vs.take x.2.2.2).map fun v => leBytes 4 v.toNat).flatten
      (s.jobWrite (.bucket k) false true (x.2.1 + 4 * x.2.2.1) bs [], vs.drop x.2.2.2)) (s, vals)).1

/-! ### Payloads (Table 09-6, R215) -/

def boolByte (b : Bool) : List Byte := [if b then 1 else 0]
def padTo (n : Nat) (l : List Byte) : List Byte := l ++ List.replicate (n - l.length) 0

def SegHeader.lead (h : SegHeader) (mark : Bool) : List Byte :=
  leBytes 4 h.tag.toNat ++ leBytes 4 h.step.toNat ++ leBytes 2 h.seq ++ leBytes 2 h.lap ++ leBytes 1 h.segment ++ leBytes 1 h.phase
    ++ boolByte mark ++ leBytes 1 h.m

def SegHeader.bytes (h : SegHeader) : List Byte :=
  padTo 240 (h.lead h.empty ++ leBytes 4 h.elements ++ leBytes 4 0 ++ leBytes 8 h.weightSum.toNat ++ leBytes 16 h.bitmap.toNat
    ++ leBytes 8 h.deadline.toNat ++ leBytes 8 h.limit.toNat)

def SegHeader.trailer (h : SegHeader) (poison : Bool) (sum : DWord) : List Byte :=
  padTo 240 (h.lead poison ++ leBytes 8 0 ++ leBytes 8 sum.toNat)

def readHeader (b : List Byte) : SegHeader where
  tag := w32 b 0
  step := w32 b 4
  seq := u16 b 8
  lap := u16 b 0xA
  segment := u8 b 0xC
  phase := u8 b 0xD
  empty := u8 b 0xE % 2 == 1
  m := u8 b 0xF
  elements := u32 b 0x10
  weightSum := w64 b 0x18
  bitmap := BitVec.ofNat 128 (field b 0x20 16)
  deadline := w64 b 0x30
  limit := w64 b 0x38

/-- Data flits of a segment: none while it is empty (R214, worked example), else one for each 60 elements. -/
def SegHeader.dataFlits (h : SegHeader) : Nat := if h.empty then 0 else (h.elements + 59) / 60

/-- The sum modulo 2^64 of the 64-bit words of a data flit (R215). -/
def flitSum (b : List Byte) : DWord := BitVec.ofNat 64 ((List.range 30).map fun i => u64 b (8 * i)).sum

def wordsBytes (vals : List Word) : List Byte := padTo 240 ((vals.map fun v => leBytes 4 v.toNat).flatten)

/-- The data flits of a list of values. -/
def dataPayloads (vals : List Word) : List (List Byte) :=
  (List.range ((vals.length + 59) / 60)).map fun i => wordsBytes ((vals.drop (60 * i)).take 60)

/-! ### Engine state -/

/-- The event or fault detail of Table 17-4. -/
def chanDetail (k : Fin 4) (seq : Nat) : Word := BitVec.ofNat 32 (seq % 65536 + 65536 * k.val)

/-- A report about a bucket's REDUCE. -/
def State.chanReport (s : State) (uk : UnitKind) (ui : Nat) (r : Reduce) (code : Half) (fault : Bool) (scope : Scope)
    (detail : Word) : Report :=
  let label := ((s.flight r.job r.ref).map (·.label)).getD 0
  s.ofJob r.job (s.report code fault scope uk ui (planWord r.ref) label detail)

def State.chanEvent (s : State) (k : Fin 4) (r : Reduce) (code : Half) (detail : Word) : State :=
  s.enter (s.chanReport .channel k.val r code false .none detail)

/-- A REDUCE ends, with a fault or without. After the end of its job only the report remains. -/
def State.endReduce (s : State) (r : Reduce) (fault : Option Report) (status : Byte) : State :=
  match s.jobs[r.job] with
  | none => s
  | some j =>
    match j.flightOf r.ref with
    | none => s
    | some f =>
      if j.ended then
        let s1 := match fault with | some x => s.enter x | none => s
        s1.modJob r.job fun j => { j with flight := j.flight.filter fun g => !(g.ref == r.ref) }
      else
        match fault with
        | some x => s.failWith r.job f x status
        | none => s.completeCmd r.job r.ref status

/-- A write of the bucket record, by the REDUCE. -/
def State.recordWrite (s : State) (r : Reduce) (off : Nat) (bs : List Byte) : State :=
  s.jobWrite (.cmd r.job r.ref) false false (r.bucket + off) bs []

/-- state_word (Table 09-3). -/
def State.bucketStatus (s : State) (r : Reduce) (status : Nat) : State :=
  s.recordWrite r 0 (leBytes 4 r.step.toNat ++ leBytes 4 status)

def State.bucketSum (s : State) (r : Reduce) (bitmap : BitVec 128) (divisor : DWord) : State :=
  s.recordWrite r 8 (leBytes 8 divisor.toNat ++ leBytes 16 bitmap.toNat)

/-- Takes a flit out of the receive buffer and frees its buffer (R371). -/
def State.consume (s : State) (k : Fin 4) (x : Payload) : State :=
  (s.modChan k fun c => { c with rx := c.rx.drop 1 }).modRing (s.chanRecv k) fun p =>
    if x.escape then { p with freedEsc := p.freedEsc + 1 } else { p with freedNorm := p.freedNorm + 1 }

/-- Hands payloads to the sending port, for a bucket or, in an excluded member, for none; finals and relayed flits may use escape credits (R371). -/
def State.emit (s : State) (k : Fin 4) (bucket : Option (Word × Word × Nat)) (escape : Bool) (l : List (List Byte)) : State :=
  (s.modRing (s.chanSend k) fun p =>
    { p with toSend := p.toSend ++ l.map fun b => { bytes := b, escape := escape, adder := 0, bucket := bucket } }).sendPort (s.chanSend k)

def Active.bucket (a : Active) : Option (Word × Word × Nat) := some (a.red.step, a.red.tag, a.red.seq)

def State.setActive (s : State) (k : Fin 4) (a : Active) : State := s.modChan k fun c => { c with active := some a }

def Active.bypass (a : Active) : Bool := a.decision == some false

/-- The rank and number of the next incoming segment (R210): its segment, whether it is a final, and whether this block sends
it on, as a partial or as a final. -/
def Active.expect (a : Active) (fwd : Bool) : Nat × Bool :=
  let m := a.red.members
  let p := a.red.rank
  let final := a.incoming ≥ m - 1
  let j := if final then a.incoming - (m - 1) else a.incoming + 1
  ((if fwd then p + m - j else p + j) % m, final)

/-- This block owns the incoming partial's final value. -/
def Active.owns (a : Active) : Bool := a.incoming + 2 = a.red.members
def Active.outFinal (a : Active) : Bool := a.incoming + 2 ≥ a.red.members
def Active.sendsOn (a : Active) : Bool := a.incoming + 3 < 2 * a.red.members

/-- R222, R223: a member's decision applied to a header. -/
def Active.decide (a : Active) (h : SegHeader) : SegHeader :=
  let own : BitVec 128 := a.red.mask
  if a.bypass then { h with bitmap := h.bitmap &&& ~~~own } else { h with weightSum := h.weightSum + BitVec.ofNat 64 a.red.weight }

/-! ### Sending the own segment (R210, R223) -/

/-- The header that this block forms for its own segment of a lap. `positions` are the included ring positions. -/
def Active.ownHeader (a : Active) (positions : BitVec 128) (elements lap : Nat) : SegHeader :=
  a.decide
    { tag := a.red.tag, step := a.red.step, seq := a.red.seq, lap := lap, segment := a.red.rank, phase := 0, empty := a.bypass
      m := a.red.members, elements := elements, weightSum := 0, bitmap := positions
      deadline := a.red.deadline.getD 0xFFFFFFFFFFFFFFFF, limit := a.red.limit }

/-- The included positions of the ring for the job (R200). -/
def State.included (s : State) (k : Fin 4) (n : Fin 32) : BitVec 128 :=
  let r := chanRing k
  let members : BitVec 128 := BitVec.ofNat 128 (2 ^ s.ringMembers r - 1)
  match s.jobs[n] with
  | some j => members &&& ~~~(if r = 0 then j.desc.exclA else j.desc.exclB)
  | none => members

/-- Sends the next run of the own segment of a lap as its first partial: the header before the first, the trailer after the last. A bypassing block
sends the segment as empty (R222). -/
def State.sendRun (s : State) (k : Fin 4) (a : Active) (positions : BitVec 128) (elements lap : Nat) (vals : List Word) (bad : Bool) : State × Active :=
  let h := a.ownHeader positions elements lap
  let data := dataPayloads vals
  let sum := (data.map flitSum).foldl (· + ·) a.ownSum
  let poison := a.ownBad || bad
  let opened := if a.ownAt = 0 then [h.bytes] else []
  if a.bypass || elements ≤ a.ownAt + vals.length then
    (s.emit k a.bucket false (opened ++ data ++ [h.trailer poison sum]), { a with ownLaps := lap + 1, ownAt := 0, ownSum := 0, ownBad := false })
  else (s.emit k a.bucket false (opened ++ data), { a with ownAt := a.ownAt + vals.length, ownSum := sum, ownBad := poison })

/-- The elements of one run of reads, at most 256 KiB (R212): whole data flits. -/
def Reduce.readRun (r : Reduce) : Nat := if r.wide then 32760 else segFull

/-- Whether the first `n` elements of the own segment number `t`, which covers `seg`, have been read; asks for the next run where they have
not and no read of the bucket is outstanding (R212). A bypassing block reads nothing (R222). -/
def State.haveOwn (s : State) (k : Fin 4) (a : Active) (t n : Nat) (seg : Nat × Nat) : State × Bool :=
  if a.bypass || n = 0 then (s, true)
  else
    let got := if a.readSeg == some t then a.readTo else 0
    if s.outstanding fun q => !q.write && q.origin == .bucket k then (s, false)
    else if n ≤ got then (s, true)
    else
      let m := Nat.min a.red.readRun (seg.2 - got)
      let s1 := s.readOwn k a.red (seg.1 + got) m
      (s1.modChan k fun c => { c with active := some { a with readSeg := some t, readTo := got + m } }, false)

/-- The next run of elements that this block alone makes, of the segment number `t`, which covers `seg`: its values and whether they are poisoned; none until
they have been read. -/
def State.ownRun (s : State) (k : Fin 4) (a : Active) (t : Nat) (seg : Nat × Nat) : State × Option (List Word × Bool) :=
  let m := Nat.min a.red.readRun (seg.2 - a.ownAt)
  let (s1, have_) := s.haveOwn k a t (a.ownAt + m) seg
  (s1, if have_ then some (if a.bypass then ([], false) else s1.ownValues a.red a.badBeats (seg.1 + a.ownAt) m) else none)

/-! ### Abandonment (R216, R227) -/

/-- The rest of the segment being received is discarded. -/
def Active.rest (a : Active) : Option (Word × Nat) := a.header.map fun h => (h.tag, h.dataFlits - a.flits + 1)

/-- A step is abandoned from the bucket of a chan_seq on (R227). -/
def Channel.abandon (c : Channel) (step tag : Word) (seq : Nat) : Channel :=
  let same (x : Word × Word × Nat) : Bool := x.1 == step && x.2.1 == tag
  let first := ((c.abandoned.filter same).map (·.2.2)).foldl Nat.min seq
  { c with abandoned := (c.abandoned.filter (!same ·)) ++ [(step, tag, first)] }

/-- A bucket belongs to an abandoned step, or comes after the bucket with which it was abandoned. -/
def Channel.lost (c : Channel) (step tag : Word) (seq : Nat) : Bool :=
  c.abandoned.any fun x => x.1 == step && x.2.1 == tag && x.2.2 ≤ seq

/-- A flit opens a segment of a later attempt, where the upstream member has broken off the segment that is being discarded: it has the form of the header of
a partial, its reserved fields zero, and another ring_tag (R216, R227). DESIGN CHOICE (log 160): the spec does not say how an engine that counts flits
tells such a header. -/
def State.opensAttempt (s : State) (k : Fin 4) (tag : Word) (b : List Byte) : Bool :=
  let h := readHeader b
  h.tag != tag && h.phase == 0 && h.lap == 0 && 1 ≤ h.m && h.m ≤ s.ringMembers (chanRing k) && h.segment < h.m && h.elements ≤ segFull
    && u8 b 0xE ≤ 1 && zeroRange b 0x14 4 && zeroRange b 0x40 176

/-- The headers of segments behind the first flits of a receive buffer. -/
def segHeaders : Nat → List Payload → List SegHeader
  | 0, _ => []
  | _, [] => []
  | n + 1, x :: r =>
    let h := readHeader x.bytes
    h :: segHeaders n (r.drop (h.dataFlits + 1))

/-- The headers that a channel holds in its receive buffer, after the segment in progress. -/
def Channel.heldHeaders (c : Channel) : List SegHeader :=
  let skip :=
    match c.discard, c.active.bind Active.rest with
    | some d, _ => d.2
    | none, some x => x.2
    | none, none => c.passing
  segHeaders c.rx.length (c.rx.drop skip)

/-- The engine stops sending the bucket and discards its later flits. -/
def State.dropActive (s : State) (k : Fin 4) : State :=
  match (s.channels[k]).active with
  | none => s
  | some a =>
    let s1 := s.modChan k fun c =>
      { c.abandon a.red.step a.red.tag a.red.seq with active := none, discard := if c.discard.isSome then c.discard else a.rest }
    s1.modRing (s1.chanSend k) fun p => { p with toSend := p.toSend.filter fun x => x.bucket != a.bucket }

/-- Abandons the active bucket with a fault. -/
def State.abandon (s : State) (k : Fin 4) (fault : Report) : State :=
  match (s.channels[k]).active with
  | none => s
  | some a =>
    let s1 := s.dropActive k
    if a.relay then s1 else (s1.bucketStatus a.red 3).endReduce a.red (some fault) 0x05

def State.mismatch (s : State) (k : Fin 4) (a : Active) : State := s.abandon k (s.chanReport .channel k.val a.red 0x0402 true .step 0)

/-! ### One incoming flit -/

/-- The elements that a segment must have; a relaying engine does not know them (R229). -/
def Active.elementsOf (a : Active) (h : SegHeader) : Nat := if a.relay then h.elements else (a.red.seg a.lap h.segment).2

/-- R216: a header or trailer against the values expected. -/
def Active.matches (a : Active) (fwd : Bool) (h : SegHeader) : Bool :=
  let (q, final) := a.expect fwd
  h.tag == a.red.tag && h.step == a.red.step && h.seq == a.red.seq && h.lap == a.lap && h.segment == q && h.phase == boolNat final
    && h.m == a.red.members

/-- The first of a bucket's finals, or their comparison with an earlier one (R216). -/
def Active.noteFinal (a : Active) (h : SegHeader) : Active :=
  match a.finals with
  | none => { a with finals := some (h.bitmap, h.weightSum) }
  | some f => { a with disagree := a.disagree || f != (h.bitmap, h.weightSum) }

/-- A relaying engine ends its bucket: the bitmap and divisor are remembered, for the last 16 such buckets (R229). `known` holds where the
engine can tell that it relayed the whole bucket. -/
def State.endRelay (s : State) (k : Fin 4) (a : Active) (known : Bool) : State :=
  let f := a.finals.getD (0, 0)
  s.modChan k fun c =>
    { c with
      active := none
      lastSeq := BitVec.ofNat 16 a.red.seq
      remembered :=
        let x : Relayed := { step := a.red.step, tag := a.red.tag, seq := a.red.seq, bitmap := f.1, divisor := f.2, laps := if known then none else some a.lap }
        (c.remembered ++ [x]).drop (c.remembered.length + 1 - 16) }

/-- The incoming segment is an empty partial that this block replaces by its own elements (R214). -/
def Active.fills (a : Active) (fwd : Bool) (h : SegHeader) : Bool := h.empty && !(a.expect fwd).2 && !a.bypass

/-- A header that the engine takes (R214, R216, R223). Empty partials are replaced by the own contribution, run by run once it has been read, or stay
empty; an empty final is written as +0. -/
def State.takeHeader (s : State) (k : Fin 4) (a0 : Active) (h : SegHeader) (x : Payload) : State :=
  let s0 := s.consume k x
  let (s1, a) := if a0.relay && a0.ownLaps ≤ a0.lap then
      let full := h.elements == segFull && a0.red.rank < h.segment
      let e := if full then segFull else (Config.relayElements s0.fresh).toNat
      let (s1, a1) := s0.sendRun k a0 (h.bitmap ||| a0.red.mask) e a0.lap [] false
      ({ s1 with fresh := s1.fresh + 1 }, a1)
    else (s0, a0)
  let (q, final) := a.expect (chanFwd k)
  let n := h.elements
  let start := (a.red.seg a.lap q).1
  let fills := a.fills (chanFwd k) h
  let out := if final then h else { (a.decide h) with phase := boolNat a.outFinal, empty := h.empty && a.bypass }
  let s2 := if a.sendsOn then s1.emit k a.bucket a.outFinal [out.bytes] else s1
  let s3 := if h.empty && !fills && a.outFinal then s2.writeResults k a.red start (List.replicate n 0) else s2
  let a1 : Active := { a with
    header := some h
    flits := 0
    sumIn := 0
    sumOut := 0
    ownAt := if fills then 0 else a.ownAt
    ownPoison := false
    short := a.short || h.elements < segFull }
  s3.setActive k (if a.outFinal then a1.noteFinal out else a1)

/-- Attempts of an addition (R213): each disagreement but a third one records 0x0405. -/
def State.adderEvents (s : State) (k : Fin 4) (r : Reduce) (n : Nat) : State :=
  let p := s.chanRecv k
  (List.range (Nat.min n 2)).foldl (fun s _ =>
    (s.modRing p fun q => { q with adders := satInc q.adders }).enter (s.chanReport .ringPort p.val r 0x0405 false .none 0)) s

/-- R213: three disagreements in a row end the REDUCE, and the port leaves service. -/
def State.adderFails (s : State) (k : Fin 4) (a : Active) : State :=
  let p := s.chanRecv k
  let r := s.chanReport .ringPort p.val a.red 0x0406 true .cmd 0
  let changed := !(s.mgmt.pins.svcDegraded && s.mgmt.pins.svcReplace)
  let s1 := s.abandon k { r with svc := changed, service := true }
  (s1.modPins fun q => { q with svcDegraded := true, svcReplace := true }).modRing p fun q => { q.relink with state := .outOfService, ucieRate := 0 }

/-- A data flit of the segment being received (R213, R215). -/
def State.takeData (s : State) (k : Fin 4) (a : Active) (h : SegHeader) (x : Payload) : State :=
  let s0 := s.consume k x
  let (q, final) := a.expect (chanFwd k)
  let n := Nat.min 60 (a.elementsOf h - 60 * a.flits)
  let start := (a.red.seg a.lap q).1 + 60 * a.flits
  let words := (List.range n).map fun i => w32 x.bytes (4 * i)
  let adds := !final && !a.bypass
  let (own, bad) := if adds then s0.ownValues a.red a.badBeats start n else ([], false)
  let s1 := if adds then s0.adderEvents k a.red x.adder else s0
  if adds && x.adder ≥ 3 then s1.adderFails k a
  else
    let vals := if adds then List.zipWith fpAdd words own else words
    let out := if adds then wordsBytes vals else x.bytes
    let s2 := if a.sendsOn then s1.emit k a.bucket a.outFinal [out] else s1
    let s3 := if a.outFinal then s2.writeResults k a.red start vals else s2
    s3.setActive k
      { a with
        flits := a.flits + 1
        sumIn := a.sumIn + flitSum x.bytes
        sumOut := a.sumOut + flitSum out
        ownPoison := a.ownPoison || bad }

/-- After an incoming segment the lap or the bucket may end. -/
def State.segmentDone (s : State) (k : Fin 4) (a : Active) : State :=
  let n := a.incoming + 1
  if n + 2 < 2 * a.red.members then s.setActive k { a with incoming := n }
  else if a.relay then
    if a.short then s.endRelay k a true else s.setActive k { a with incoming := 0, lap := a.lap + 1 }
  else if a.lap + 1 < a.red.laps then s.setActive k { a with incoming := 0, lap := a.lap + 1, short := false }
  else s.setActive k { a with incoming := n, passed := true }

/-- The lap whose own segment the engine sends next, where its turn has come: the lap in progress, or the next one once this block's last send
of this lap is done (R211). -/
def Active.ownTurn (a : Active) : Option Nat :=
  if a.decision.isNone || a.passed || a.relay || a.red.members ≤ 1 then none
  else if a.ownLaps ≤ a.lap then some a.lap
  else if a.ownLaps = a.lap + 1 && 2 * a.red.members ≤ a.incoming + 3 && a.ownLaps < a.red.laps then some a.ownLaps
  else none

/-- The own segment of a lap goes out run by run, each once it is read and the one before has been sent (R210, R212); none where the engine must wait. -/
def State.ownStep (s : State) (k : Fin 4) (a : Active) (lap : Nat) : Option State :=
  let seg := a.red.seg lap a.red.rank
  if a.ownAt > 0 && !s.sendReady k then none
  else
    match s.ownRun k a (lap * a.red.members) seg with
    | (s1, some x) =>
      let (s2, a1) := s1.sendRun k a (s1.included k a.red.job) seg.2 lap x.1 x.2
      some (s2.setActive k a1)
    | (s1, none) => if (s1.channels[k]).active != some a then some s1 else none

/-- An empty partial gets the next run of this block's elements (R212, R214); none where the engine must wait. -/
def State.fillStep (s : State) (k : Fin 4) (a : Active) (h : SegHeader) : Option State :=
  let start := (a.red.seg a.lap (a.expect (chanFwd k)).1).1
  if a.sendsOn && !s.sendReady k then none
  else
    match s.ownRun k a (a.lap * a.red.members + a.incoming + 1) (start, h.elements) with
    | (s1, some x) =>
      let data := dataPayloads x.1
      let s2 := if a.sendsOn then s1.emit k a.bucket a.outFinal data else s1
      let s3 := if a.outFinal then s2.writeResults k a.red (start + a.ownAt) x.1 else s2
      some (s3.setActive k
        { a with ownAt := a.ownAt + x.1.length, sumOut := (data.map flitSum).foldl (· + ·) a.sumOut, ownPoison := a.ownPoison || x.2 })
    | (s1, none) => if (s1.channels[k]).active != some a then some s1 else none

/-- R202: with one member the result needs no flit: one run of a segment after another is read and written. -/
def State.aloneStep (s : State) (k : Fin 4) (a : Active) : Option State :=
  let seg := a.red.seg a.lap 0
  match s.ownRun k a a.lap seg with
  | (s1, some x) =>
    let vals := if a.bypass then List.replicate seg.2 0 else x.1
    let h := a.ownHeader a.red.mask seg.2 a.lap
    let a1 : Active := { a with finals := some (h.bitmap, h.weightSum), poison := a.poison || x.2 }
    let a2 : Active :=
      if a.ownAt + vals.length < seg.2 then { a1 with ownAt := a.ownAt + vals.length }
      else { a1 with ownAt := 0, ownLaps := a.lap + 1, lap := a.lap + 1, passed := a.lap + 1 ≥ a.red.laps }
    some ((s1.writeResults k a.red (seg.1 + a.ownAt) vals).setActive k a2)
  | (s1, none) => if (s1.channels[k]).active != some a then some s1 else none

/-- The own elements that the incoming segment needs before its next data flit: none for a final. -/
def Active.needs (a : Active) (fwd : Bool) (h : SegHeader) : Nat := if (a.expect fwd).2 then 0 else Nat.min (60 * (a.flits + 1)) h.elements

/-- The trailer of the segment being received (R215, R216). -/
def State.takeTrailer (s : State) (k : Fin 4) (a0 : Active) (h : SegHeader) (x : Payload) : State :=
  let a : Active := { a0 with ownAt := if a0.fills (chanFwd k) h then 0 else a0.ownAt }
  let s0 := s.consume k x
  let t := readHeader x.bytes
  if t.tag ≠ a.red.tag then
    (s0.setActive k { a with header := none }).chanEvent k a.red 0x040B 0
  else if !a.matches (chanFwd k) t then (s0.setActive k { a with header := none }).mismatch k a
  else
    let bad := w64 x.bytes 0x18 ≠ a.sumIn
    let p := s0.chanRecv k
    let s1 := if bad then
        (s0.modRing p fun q => { q with checksums := satInc q.checksums }).chanEvent k a.red 0x0404 (chanDetail k a.red.seq)
      else s0
    let poison := u8 x.bytes 0xE % 2 == 1 || bad || a.ownPoison
    let out := { h with phase := boolNat a.outFinal }
    let s2 := if a.sendsOn then s1.emit k a.bucket a.outFinal [out.trailer poison a.sumOut] else s1
    s2.segmentDone k { a with header := none, flits := 0, poison := a.poison || (a.outFinal && poison) }

/-- Whether a segment that no active bucket takes is for this block. DEDUCED (log 12): its first flits come as partials whose bitmap holds the
bit of every included member that has not bypassed yet (R223), so that a header with this block's bit is held for its REDUCE (R229) and one without
it is relayed (R201). -/
def State.claims (s : State) (k : Fin 4) (h : SegHeader) : Bool := h.bitmap.getLsbD (s.ringPos (chanRing k))

/-- What the engine does of its own accord: with one member the next segment, else the empty partial that it fills, or the own segment whose turn has come.
R41: none while a reset quiesces the block. -/
def State.ownWork (s : State) (k : Fin 4) : Option State :=
  match (s.channels[k]).active with
  | none => none
  | some a =>
    if s.resetQuiescing || a.decision.isNone || a.passed || a.relay then none
    else if a.red.members ≤ 1 then s.aloneStep k a
    else
      match a.header.filter fun h => a.fills (chanFwd k) h && a.ownAt < h.elements, a.ownTurn with
      | some h, _ => s.fillStep k a h
      | none, some lap => s.ownStep k a lap
      | none, none => none

/-- Goes on with the next data flit of the incoming segment once the own elements that it needs have been read. -/
def State.withOwn (s : State) (k : Fin 4) (a : Active) (h : SegHeader) (go : State → State) : Option State :=
  let seg := a.red.seg a.lap (a.expect (chanFwd k)).1
  let (s1, have_) := s.haveOwn k a (a.lap * a.red.members + a.incoming + 1) (a.needs (chanFwd k) h) seg
  if have_ then some (go s1) else if (s1.channels[k]).active != some a then some s1 else none

/-- The engine waits before it takes a flit of its bucket: for its decision, for its own segment, for room to send, or for a reset that
quiesces the block (R41). -/
def State.engineWaits (s : State) (k : Fin 4) (a : Active) : Bool :=
  a.decision.isNone || a.passed || (!a.relay && (s.resetQuiescing || a.ownLaps ≤ a.lap)) || (a.sendsOn && !s.sendReady k)

/-- One flit at the front of the receive buffer, with an active bucket and no segment being discarded or relayed. -/
def State.takeActive (s : State) (k : Fin 4) (a : Active) (x : Payload) : Option State :=
  let h := readHeader x.bytes
  let drop := (s.consume k x).modChan k fun c => { c with discard := some (h.tag, h.dataFlits + 1) }
  if s.engineWaits k a then none
  else
    match a.header with
    | some g =>
      if a.flits < g.dataFlits then s.withOwn k a g fun s => s.takeData k a g x
      else if a.fills (chanFwd k) g && a.ownAt < g.elements then none
      else some (s.takeTrailer k a g x)
    | none =>
      if h.tag ≠ a.red.tag then some (drop.event 0x040B .channel k.val 0)
      else if a.relay && a.incoming = 0 && a.lap > 0 && (h.seq ≠ a.red.seq || h.step ≠ a.red.step) then some (s.endRelay k a true)
      else if !a.matches (chanFwd k) h || h.elements ≠ a.elementsOf h then some (drop.mismatch k a)
      else some (s.takeHeader k a h x)

/-- One flit at the front of the receive buffer; none where the engine must wait. -/
def State.takeFlit (s : State) (k : Fin 4) : Option State :=
  let c := s.channels[k]
  match c.rx with
  | [] => none
  | x :: _ =>
    let h := readHeader x.bytes
    match c.discard with
    | some (tag, n) =>
      if s.opensAttempt k tag x.bytes then some (s.modChan k fun c => { c with discard := none })
      else
      let s1 := (s.consume k x).modChan k fun c => { c with discard := if n ≤ 1 then none else some (tag, n - 1) }
      if n ≤ 1 && tag ≠ c.tag then some (s1.event 0x040B .channel k.val 0) else some s1
    | none =>
      if c.passing > 0 then
        if !s.sendReady k then none
        else some (((s.consume k x).modChan k fun c => { c with passing := c.passing - 1 }).emit k none true [x.bytes])
      else
        match c.active with
        | some a => s.takeActive k a x
        | none =>
          if c.lost h.step h.tag h.seq then
            let s1 := (s.consume k x).modChan k fun c => { c with discard := some (h.tag, h.dataFlits + 1) }
            some (if h.tag ≠ c.tag then s1.event 0x040B .channel k.val 0 else s1)
          else if s.claims k h || !c.staging.isEmpty then none
          else if !s.sendReady k then none
          else some (((s.consume k x).modChan k fun c => { c with passing := h.dataFlits + 1 }).emit k none true [x.bytes])

/-- Goes on while the engine can. -/
def pumpChan (k : Fin 4) : Nat → State → State
  | 0, s => s
  | n + 1, s =>
    match s.ownWork k with
    | some t => pumpChan k n t
    | none =>
      match s.takeFlit k with
      | none => s
      | some t => pumpChan k n t

/-- An engine goes on while it can; one that holds a fault report issues nothing further (R404). -/
def State.pump (s : State) (k : Fin 4) : State :=
  if s.unitHeld .channel k.val then s else pumpChan k (3 * (s.channels[k]).rx.length + 8) s

/-- Every engine goes on. -/
def State.pumpChannels (s : State) : State := (List.finRange 4).foldl (fun s k => s.pump k) s

/-- What a port does after it has taken in a flit's ack and credits: it sends, and the channel that sends on it goes on. -/
def State.portGoesOn (s : State) (p : Fin 4) : State :=
  let s1 := s.sendPort p
  match s1.chanOn p true with
  | none => s1
  | some k => s1.pump k

/-! ### Flits received -/

def State.portUp? (s : State) (p : Fin 4) : Bool := s.linkReady && (s.ringPorts[p]).state == .up

/-- RING_DATA_FLIT (R371): a flit of the expected seq is accepted into the channel's receive buffer; another is discarded, with its ack and credits taken. -/
def execRingDataFlit (port : Fin 4) (rx : RxFlit) (adderFaults : Nat) (s : State) : Host.Outcome State Fault Refusal :=
  let flit := rxBytes rx
  if !s.portUp? port then .next s
  else if !flitOk flit then .next (s.dropFlit port rx.late)
  else if flitType flit != 1 then .next s
  else
    let s1 := s.modRing port fun r => r.takeAck flit
    if flitSeq flit ≠ (s.ringPorts[port]).rxSeq then .next ((s1.dropFlit port rx.late).portGoesOn port)
    else
      let x : Payload := { bytes := flitPayload flit, escape := u8 flit 1 == 1, adder := adderFaults, bucket := none }
      let s2 := s1.modRing port fun r => { r with rxSeq := r.rxSeq + 1, nakSent := false }
      match s2.chanOn port false with
      | none => .next (s2.portGoesOn port)
      | some k => .next (((s2.modChan k fun c => { c with rx := c.rx ++ [x] }).pump k).portGoesOn port).afterDeferral

/-- RING_NAK. -/
def execRingNak (port : Fin 4) (rx : RxFlit) (s : State) : Host.Outcome State Fault Refusal :=
  let flit := rxBytes rx
  if !s.portUp? port then .next s
  else if !flitOk flit then .next (s.dropFlit port rx.late)
  else if flitType flit != 2 then .next s
  else .next (((s.modRing port fun r => r.takeAck flit).replayPort port).portGoesOn port).afterDeferral

/-- RING_IDLE: the down mask of the payload is heard (R374). -/
def execRingIdle (port : Fin 4) (rx : RxFlit) (s : State) : Host.Outcome State Fault Refusal :=
  let flit := rxBytes rx
  if !s.portUp? port then .next s
  else if !flitOk flit then .next (s.dropFlit port rx.late)
  else if flitType flit != 0 then .next s
  else
    let m := BitVec.ofNat 128 (field (flitPayload flit) 0 16)
    let s1 := s.modRing port fun r => { r.takeAck flit with heard := r.recent s.beatNow ++ [(m, s.beatNow)] }
    .next (s1.portGoesOn port).afterDeferral

/-! ### Buckets (R218 to R229) -/

/-- R225: the weight is folded in once for a step; the contribution weight of a sending step is pending_weight. -/
def State.foldWeight (s : State) (r : Reduce) : State × Nat :=
  if r.thin ≤ 1 then (s, r.weight)
  else
    let pend := s.ext.near.field (r.bucket + 0x20) 8
    if s.ext.near.field (r.bucket + 0x34) 4 = r.step.toNat then (s, pend)
    else
      let w := (pend + r.weight) % 2 ^ 64
      ((s.recordWrite r 0x20 (leBytes 8 w)).recordWrite r 0x34 (leBytes 4 r.step.toNat), w)

/-- The engine takes its own decision (R221, R222), and goes on with the bucket. -/
def State.decide (s : State) (k : Fin 4) (a : Active) (contribute : Bool) : State :=
  let r := a.red
  let s0 := if contribute then s
    else (s.recordWrite r 0x2C (leBytes 4 (s.ext.near.field (r.bucket + 0x2C) 4 + 1))).chanEvent k r 0x0820 (chanDetail k r.seq)
  (s0.setActive k { a with decision := some contribute }).pump k

/-- The step of the record that a REDUCE names comes into use on its channel (R227, Table 16-10). -/
def Channel.useStep (c : Channel) (r : Reduce) : Channel :=
  if c.step == r.step && c.tag == r.tag then c
  else { c with step := r.step, tag := r.tag, lastSeq := 0xFFFF, abandonTold := false }

/-- The highest chan_seq that has passed in the step in use (Table 16-10). -/
def Channel.noteSeq (c : Channel) (seq : Nat) : Channel :=
  { c with lastSeq := if c.lastSeq == 0xFFFF then BitVec.ofNat 16 seq else BitVec.ofNat 16 (Nat.max c.lastSeq.toNat seq) }

def Relayed.isOf (x : Relayed) (r : Reduce) : Bool := x.step == r.step && x.tag == r.tag && x.seq == r.seq

/-- Starts a staged bucket. One of those remembered has passed, be it of an earlier step; the engine relayed it without being able to tell its end only if no
lap of it was still to come (R227, R229; log 116). A step that a thinned bucket sits out needs no flit, so it is HELD whatever has passed (R225). -/
def State.startBucket (s : State) (k : Fin 4) (r0 : Reduce) : State :=
  let known := (s.channels[k]).remembered.find? fun x => x.isOf r0
  let s0 := s.modChan k fun c => { (if known.isSome then c else c.useStep r0) with staging := c.staging.drop 1 }
  let c := s0.channels[k]
  let (s1, w) := s0.foldWeight r0
  let r := { r0 with weight := w }
  if c.lost r.step r.tag r.seq then
    let s2 := if c.abandonTold then s1 else s1.chanEvent k r 0x040A (chanDetail k r.seq)
    ((s2.modChan k fun c => { c with abandonTold := true }).bucketStatus r 3).endReduce r none 0x05
  else if r.thin > 1 && r.step.toNat % r.thin ≠ r.thin - 1 then
    ((s1.modChan k fun c => c.noteSeq r.seq).bucketStatus r 2).endReduce r none 0x01
  else if known.isSome || (c.lastSeq ≠ 0xFFFF && r.seq ≤ c.lastSeq.toNat) then
    let bm := (known.map (·.bitmap)).getD 0
    let dv := (known.map (·.divisor)).getD 0
    if (known.bind (·.laps)).any (· < r.laps) then
      ((s1.modChan k fun c => c.abandon r.step r.tag r.seq).bucketStatus r 3).endReduce r
        (some (s1.chanReport .channel k.val r 0x0821 true .step (chanDetail k r.seq))) 0x05
    else
      ((s1.bucketSum r bm dv).bucketStatus r 5).endReduce r
        (some (s1.chanReport .channel k.val r 0x0822 true .step (chanDetail k r.seq))) 0x05
  else
    let was := match s1.jobs[r.job] with | some j => j.readyFor r | none => false
    s1.setActive k
      { red := r, relay := false, wasReady := was, decision := none, lap := 0, incoming := 0, ownLaps := 0, readSeg := none, readTo := 0
        badBeats := [], ownAt := 0, ownSum := 0, ownBad := false, header := none, flits := 0, sumIn := 0, sumOut := 0, ownPoison := false
        poison := false, finals := none, disagree := false, short := false, passed := false }

/-- A relayed bucket whose laps its REDUCE now makes known has ended (R229). -/
def State.relayKnown (s : State) (k : Fin 4) : State :=
  let c := s.channels[k]
  match c.active, c.staging with
  | some a, r :: _ =>
    if a.relay && a.red.seq == r.seq && a.red.tag == r.tag && a.incoming = 0 && a.header.isNone && a.lap ≥ r.laps then s.endRelay k a true else s
  | _, _ => s

/-- An engine works: the link does, no reset quiesces the block (R41), and it holds no fault report (R404). -/
def State.engineRuns (s : State) (k : Fin 4) : Bool := s.linkReady && !s.resetQuiescing && !s.unitHeld .channel k.val

/-- BUCKET_START (R219): the next staged bucket starts once its predecessor has passed. -/
def execBucketStart (chan : Fin 4) (s : State) : Host.Outcome State Fault Refusal :=
  if !s.engineRuns chan then .next s
  else
    let s0 := s.relayKnown chan
    let c := s0.channels[chan]
    match c.active, c.staging with
    | none, r :: _ => .next (s0.startBucket chan r)
    | _, _ => .next s0

/-- R208, R221: the contribution is ready; the deadline has been reached. -/
def State.contribReady (s : State) (r : Reduce) : Bool := match s.jobs[r.job] with | some j => j.readyFor r | none => false
def State.contribLate (s : State) (r : Reduce) : Bool := match r.deadline with | some d => s.reached d | none => false

/-- The decision that a bucket's turn brings (R221): a contribution first observed ready together with the deadline, or after it, counts as not
ready; none where the engine waits. -/
def State.decision (s : State) (a : Active) : Option Bool :=
  if a.wasReady || (s.contribReady a.red && !s.contribLate a.red) then some true
  else if s.contribLate a.red then some false
  else none

/-- CONTRIBUTION_DECISION (R221). -/
def execContributionDecision (chan : Fin 4) (s : State) : Host.Outcome State Fault Refusal :=
  match (s.channels[chan]).active with
  | none => .next s
  | some a =>
    if !s.engineRuns chan || a.decision.isSome then .next s
    else
      match s.decision a with
      | some b => .next (s.decide chan a b)
      | none => .next s

/-- REDUCE_DEADLINE (R221, R222): the deadline is observed with the decision still open. -/
def execReduceDeadline (chan : Fin 4) (s : State) : Host.Outcome State Fault Refusal :=
  match (s.channels[chan]).active with
  | none => .next s
  | some a =>
    if !s.engineRuns chan || a.decision.isSome || !s.contribLate a.red then .next s.afterDeferral
    else .next (s.decide chan a a.wasReady).afterDeferral

/-- Before the beat advances: which open contributions have been observed ready (R208, R221). -/
def State.noteReady (s : State) : State :=
  { s with channels := s.channels.map fun c =>
      { c with active := c.active.map fun (a : Active) => { a with wasReady := a.wasReady || (s.contribReady a.red && !s.contribLate a.red) } } }

/-- UNISSUED_BUCKET_DEADLINE (R229): the engine relays the held flits of a bucket whose REDUCE has not arrived; those before it that sit the step out send no
flit (R225). -/
def execUnissuedBucketDeadline (chan : Fin 4) (s : State) : Host.Outcome State Fault Refusal :=
  let c := s.channels[chan]
  match c.active, c.staging, c.rx with
  | none, [], x :: _ =>
    let h := readHeader x.bytes
    let next := !(h.tag == c.tag && h.step == c.step) || c.lastSeq == 0xFFFF || c.lastSeq.toNat < h.seq
    if !s.linkReady || s.unitHeld .channel chan.val || c.discard.isSome || c.passing > 0 || c.lost h.step h.tag h.seq || !s.claims chan h
        || h.deadline = 0xFFFFFFFFFFFFFFFF || !s.reached h.deadline || !next then .next s
    else
      let job := ((List.finRange 32).find? fun n => match s.jobs[n] with
          | some j => if chanRing chan = 0 then j.desc.ringA else j.desc.ringB
          | none => false).getD 0
      let m := Nat.max h.m 1
      let r : Reduce :=
        { job := job, ref := ⟨0, none⟩, bucket := 0, step := h.step, tag := h.tag, weight := 0, deadline := some h.deadline
          limit := h.limit, seq := h.seq, wide := false, thin := 1, extents := [], elements := 0, members := h.m
          rank := (if chanFwd chan then h.segment + 1 else h.segment + m - 1) % m, mask := 1 <<< s.ringPos (chanRing chan) }
      let a : Active :=
        { red := r, relay := true, wasReady := false, decision := some false, lap := 0, incoming := 0, ownLaps := 0
          readSeg := none, readTo := 0, badBeats := [], ownAt := 0, ownSum := 0, ownBad := false, header := none, flits := 0, sumIn := 0, sumOut := 0, ownPoison := false, poison := false
          finals := none, disagree := false, short := false, passed := false }
      .next (((s.modChan chan fun c => { c.useStep r with active := some a }).pump chan).portGoesOn (s.chanSend chan))
  | _, _, _ => .next s

/-- BUCKET_LIMIT (R227): the active bucket, or one that waits in staging, or one whose flits are held for a REDUCE that has not
arrived, is abandoned at its limit beat. DESIGN CHOICE (log 116): a relayed bucket between two laps, all of them full, may have passed; its REDUCE
tells. -/
def execBucketLimit (chan : Fin 4) (s : State) : Host.Outcome State Fault Refusal :=
  let c := s.channels[chan]
  let fault (r : Reduce) := s.chanReport .channel chan.val r 0x0821 true .step (chanDetail chan r.seq)
  if !s.engineRuns chan then .next s
  else
    let act := match c.active with | some a => s.reached a.red.limit | none => false
    match c.active, act, c.staging.find? fun r => s.reached r.limit with
    | some a, true, _ =>
      if a.relay && a.incoming = 0 && a.header.isNone && a.lap > 0 then .next ((s.endRelay chan a false).pump chan).afterDeferral
      else .next ((s.abandon chan (fault a.red)).pump chan).afterDeferral
    | _, _, some r =>
      let same (x : Reduce) : Bool := x.ref == r.ref && x.job == r.job
      let s1 := s.modChan chan fun c =>
        let d := if c.active.isNone && (c.staging.head?.map same).getD false then c.useStep r else c
        { d.abandon r.step r.tag r.seq with staging := c.staging.filter fun x => !same x }
      let (s2, _) := s1.foldWeight r
      .next ((s2.bucketStatus r 3).endReduce r (some (fault r)) 0x05)
    | none, _, none =>
      match c.rx with
      | [] => .next s
      | x :: _ =>
        let h := readHeader x.bytes
        if c.discard.isSome || c.passing > 0 || !s.claims chan h || !s.reached h.limit then .next s
        else
          .next ((s.modChan chan fun c =>
            { c.abandon h.step h.tag h.seq with
              step := h.step
              tag := h.tag
              lastSeq := if c.tag == h.tag && c.step == h.step then c.lastSeq else 0xFFFF
              abandonTold := c.abandonTold && c.tag == h.tag }).pump chan)
    | _, _, _ => .next s

/-- The state_word of a bucket that completes goes out once the REDUCE's other writes have their responses (R224, R226). -/
def State.statusLast (s : State) (r : Reduce) (status : Nat) : State :=
  if ((s.jobs[r.job]).map (·.ended)).getD true then s.bucketStatus r status
  else s.modFlight r.job r.ref fun f => { f with stages := f.stages ++ [[(false, r.bucket, leBytes 4 r.step.toNat ++ leBytes 4 status)]] }

/-- The bucket record of a bucket that has passed (R216, R217, R224, R226). -/
def State.passBucket (s : State) (k : Fin 4) (a : Active) : State :=
  let r := a.red
  let (bm, dv) := a.finals.getD (0, 0)
  let s0 := s.modChan k fun c => { (c.noteSeq r.seq) with active := none }
  if a.disagree then
    (s0.bucketStatus r 3).endReduce r (some (s0.chanReport .channel k.val r 0x0402 true .step 0)) 0x05
  else if a.poison then
    ((s0.bucketSum r bm dv).bucketStatus r 4).endReduce r (some (s0.chanReport .channel k.val r 0x0403 true .ring 0)) 0x04
  else
    let s1 := s0.bucketSum r bm dv
    let s2 := if r.thin > 1 && !a.bypass then
        let z := r.extents.foldl (fun s (e : Nat × Nat × Nat) =>
          s.jobWrite (.cmd r.job r.ref) false false e.1 (List.replicate (8 * e.2.2) 0) []) s1
        (z.recordWrite r 0x20 (leBytes 8 0)).recordWrite r 0x28 (leBytes 4 r.step.toNat)
      else s1
    (s2.statusLast r 1).endReduce r none 0x01

/-- BUCKET_PASSED: the last result write of the bucket has its response. -/
def execBucketPassed (chan : Fin 4) (s : State) : Host.Outcome State Fault Refusal :=
  match (s.channels[chan]).active with
  | none => .next s
  | some a =>
    if !s.engineRuns chan || !a.passed || (s.outstanding fun q => q.write && q.origin == .bucket chan) then .next s
    else .next (s.passBucket chan a).afterDeferral

/-- R228: a warm or job reset abandons every bucket of the job, writes the records, and drains the channels. -/
def State.abandonJob (s : State) (n : Fin 32) : State :=
  (List.finRange 4).foldl (fun s k =>
    let c := s.channels[k]
    let named : Bool := match s.jobs[n] with | some j => if chanRing k = 0 then j.desc.ringA else j.desc.ringB | none => false
    let mine := c.staging.filter (·.job == n)
    let act := match c.active with | some a => a.red.job == n && (named || !a.relay) | none => false
    let live := match c.active with | some a => if act && !a.relay then [a.red] else [] | none => []
    if !named && mine.isEmpty && live.isEmpty then s
    else
      let s1 := if act then s.dropActive k else s
      let s2 := (live ++ mine).foldl (fun s r => s.bucketStatus r 3) s1
      let held := if !named then [] else (c.heldHeaders.filter (s.claims k)).map fun h => (h.step, h.tag)
      let gone := (live ++ mine).map (fun r => (r.step, r.tag)) ++ (if named && c.tag != 0 then [(c.step, c.tag)] else []) ++ held
      let s3 := s2.modChan k fun c =>
        let d := gone.foldl (fun (c : Channel) x => c.abandon x.1 x.2 0) c
        { d with staging := c.staging.filter fun r => !(r.job == n) }
      s3.pump k) s

end Sys2Proof.Machine
end

