-- ==== Sys2Proof/Machine/Reset.lean ====
section
/-! DEFINITION. The resets of the block (R40, R41, R45, R352, R392, Table 02-7), and the lockstep mismatches of the sequencer
pairs and the management controller (R343, R344). -/

namespace Sys2Proof.Machine

/-- Register accesses are served (R379): not during a management-controller restart nor after a failed boot step 1. -/
def State.raServed (s : State) : Bool := s.functional && !s.mgmt.boot.dead && !s.mgmt.boot.restarting

/-- The outcome of a register access (Table 15-11): the read data is 0 with an error. While `ra_ready` is held at 0 no access ends, and the
outputs stay 0 (R353, R383). -/
def State.raDone (s : State) (data : Word) (err : Bool) : State :=
  let live := s.functional
  { s with mgmt := { s.mgmt with ra := { s.mgmt.ra with rdata := if err || !live then 0 else data, error := err && live } } }

/-- R352: requests in flight are dropped. A write that may have been accepted takes effect or not word by word; one that was
never issued does not. -/
def State.dropTraffic (s : State) : State :=
  let s1 := s.dropUnissued fun _ => true
  let w := (s1.tilePorts.toList.map fun t => t.reqs.filter fun q => q.write).flatten
  let s2 := w.foldl State.tearWrite s1
  { s2 with tilePorts := s2.tilePorts.map fun _ => TilePort.reset }

/-- Table 02-7, Cold and Power-on. Inputs keep the level that the surroundings give them. -/
def State.coldClear (s : State) (powerOn : Bool) : State :=
  let s1 := s.dropTraffic
  let p := s1.mgmt.pins
  let pins : Pins :=
    { p with svcDegraded := false, svcReplace := false, wso := [], scanned := false, temps := Vector.replicate 32 0, trip := false,
             swState := if powerOn then 0 else p.swState }
  let log : Log :=
    if powerOn then Log.reset
    else { s1.log with held := [], sel := 0, selHeld := false, data := List.replicate 8 0 }
  { s1 with
    mgmt := { Mgmt.reset with pins := pins }
    log := log
    scan := Scan.reset
    sched := State.reset.sched
    jobs := State.reset.jobs
    clients := State.reset.clients
    cores := State.reset.cores
    facets := State.reset.facets
    transit := []
    ringPorts := State.reset.ringPorts
    channels := State.reset.channels
    pairs := State.reset.pairs }

def State.setCause (s : State) (f : Cause → Cause) : State := { s with mgmt := { s.mgmt with cause := f s.mgmt.cause } }

/-- POWER_ON_RESET: pwr_logic_good falls and rises again with pwr_cold_n at 0 (Table 15-2). -/
def execPowerOnReset (s : State) : Host.Outcome State Fault Refusal :=
  .next ((s.coldClear true).modPins fun p => { p with coldN := false })

/-- COLD_RESET_ASSERT: pwr_cold_n falls. -/
def execColdResetAssert (s : State) : Host.Outcome State Fault Refusal :=
  if !s.mgmt.pins.coldN then .next s
  else
    .next (((s.coldClear false).modPins fun p => { p with coldN := false }).setCause fun _ =>
      { kind := 1, coldByRegister := false, jobByFault := false, count := 0 })

/-- COLD_RESET_RELEASE: the static inputs are sampled and boot begins; under a wrapper instruction other than WS_BYPASS, once that has left (R383;
DEDUCED, log 151). -/
def execColdResetRelease (rpMode : BitVec 4) (arrayNominal : BitVec 5) (selfCheck : Bool) (s : State) :
    Host.Outcome State Fault Refusal :=
  if s.mgmt.pins.coldN then .next s
  else
    let s1 := s.modPins fun p => { p with coldN := true, rpMode := rpMode, arrayNominal := arrayNominal }
    if s1.functional then .next (s1.bootStart false selfCheck) else .next (s1.modBoot fun b => { b with held := some selfCheck })

def State.booting (s : State) : Bool := s.mgmt.boot.cutState == .booting

def State.warmQuiescing (s : State) : Bool :=
  match s.mgmt.quiesce with
  | some q => q.kind = .warm
  | none => false

/-- A cold reset by register: at once, even during a lower reset, but discarded while a cold or power-on boot is in progress. -/
def State.registerCold (s : State) (selfCheck : Bool) : State :=
  if s.booting && !s.mgmt.boot.warm then s.resetDiscarded 1
  else
    ((s.coldClear false).setCause fun _ => { kind := 1, coldByRegister := true, jobByFault := false, count := 0 }).bootStart
      false selfCheck

def State.registerWarm (s : State) : State :=
  if s.booting || s.mgmt.boot.cutState == .failed || s.warmQuiescing then s.resetDiscarded 2
  else
    (((s.dropUnissued fun q => q.origin ≠ .block).startQuiesce .warm).setCause fun c =>
      { c with kind := 2, count := satIncH c.count })

def State.registerJob (s : State) : State :=
  if s.booting || s.mgmt.boot.cutState == .failed || s.resetQuiescing then s.resetDiscarded 3
  else
    match s.sched.run with
    | none => s
    | some n =>
      (((s.dropUnissued (s.serves n)).startQuiesce .job).setCause fun c =>
        { c with kind := 3, jobByFault := false, count := satIncH c.count })

/-- BLOCK_RESET_COLD: the access completes without error before the reset takes effect. -/
def execBlockResetCold (selfCheck : Bool) (s : State) : Host.Outcome State Fault Refusal :=
  if !s.raServed then .next (s.raDone 0 true) else .next ((s.raDone 0 false).registerCold selfCheck)

/-- BLOCK_RESET_WARM. -/
def execBlockResetWarm (s : State) : Host.Outcome State Fault Refusal :=
  if !s.raServed then .next (s.raDone 0 true) else .next (s.raDone 0 false).registerWarm

/-- BLOCK_RESET_JOB: without a running job it has no effect (R40). -/
def execBlockResetJob (s : State) : Host.Outcome State Fault Refusal :=
  if !s.raServed then .next (s.raDone 0 true) else .next (s.raDone 0 false).registerJob

/-! ### Quiescing (R41) -/

/-- What the quiescing waits for: the response of every request for a reset, for an abort the job's boundaries and the responses of its requests
(R41, R327). -/
def State.quiesceOpen (s : State) (k : QuiesceKind) : Bool :=
  match k, s.sched.run with
  | .abort, some n => s.boundaryOpen n || s.outstanding fun q => q.origin.isJob n
  | _, _ => s.outstanding fun _ => true

/-- Table 02-7, Warm: what a warm reset clears; records, masks of lost units, RWL registers and counters stay. -/
def State.warmClear (s : State) : State :=
  State.updateDegraded { s.clearTier0 with
    scan := Scan.reset
    sched := State.reset.sched
    jobs := State.reset.jobs
    clients := s.clients.map fun c => { c with taken := none }
    cores := s.clearTier0.cores.map fun c => { c with inService := false, hampers := Vector.replicate 16 [], lastSlot := none }
    channels := State.reset.channels
    ringPorts := s.ringPorts.map fun p => if p.state == .outOfService then p else { p.relink with state := .down, everUp := false, heard := [], downMask := 0, ucieRate := 0 }
    pairs := s.pairs.map fun p => { p with state := .out }
    facets := s.facets.map fun f =>
      { f.blank with step := 0, polishing := false, repeating := false, immediate := false, forced := false, polished := false,
                     suppressedPasses := 0, residueRun := none, accRun := [] }
    mgmt := { s.mgmt with quiesce := none, lead := { s.mgmt.lead with valid := false } } }

/-- Completion records with end 3 for every admitted job (R328). -/
def State.warmRecords (s : State) : State :=
  (List.finRange 32).foldl (fun s n => if ((s.jobs[n]).map (·.ended)).getD true then s else s.writeRecord n 3) s

/-- The job of a job reset ends with the given end_word, its buckets abandoned (R228). -/
def State.jobResetEnds (s : State) (endWord : Nat) : State :=
  match s.running with
  | none => s
  | some (n, j) =>
    let s1 := s.abandonJob n
    if j.ended then s1.finishTeardown n else (s1.writeRecord n endWord).finishTeardown n

/-- QUIESCE_COMPLETE. -/
def execQuiesceComplete (selfCheck : Bool) (s : State) : Host.Outcome State Fault Refusal :=
  match s.mgmt.quiesce with
  | none => .next s
  | some q =>
    if !s.functional || s.quiesceOpen q.kind then .next s
    else
      let s1 : State := { s with mgmt := { s.mgmt with quiesce := none } }
      match q.kind with
      | .warm =>
        let s2 := (List.finRange 32).foldl (fun s n => s.abandonJob n) s1
        .next (s2.warmRecords.warmClear.bootStart true selfCheck)
      | .job => .next (s1.jobResetEnds 3).pumpChannels
      | .jobFault => .next (s1.jobResetEnds 2).pumpChannels
      | .mcStop => .next (s1.jobResetEnds 3).pumpChannels
      | .abort =>
        match s1.sched.run with
        | none => .next s1
        | some n => .next (s1.endRunning n 5)

/-- QUIESCE_TIMEOUT: responses still outstanding after 64 beats. -/
def execQuiesceTimeout (s : State) : Host.Outcome State Fault Refusal :=
  match s.mgmt.quiesce with
  | none => .next s
  | some q =>
    if !s.functional || q.reported || !s.reached (q.since + 64) || !s.quiesceOpen q.kind then .next s
    else
      let s1 : State := { s with mgmt := { s.mgmt with quiesce := some { q with reported := true } } }
      .next ((s1.event 0x070E .block 0 0).raiseIrq 20)

/-! ### Lockstep (R343, R344) -/

/-- SEQ_LOCKSTEP_MISMATCH: the command being executed ends with 0x0310; the pair restarts from its clean copy, or leaves service
when both copies are unclean, both are clean, or a mismatch is recent. -/
def execSeqLockstepMismatch (pair : Fin 8) (cleanA cleanB recent : Bool) (executing : Option CmdRef) (s : State) :
    Host.Outcome State Fault Refusal :=
  if !s.functional || (s.pairs[pair]).state == .out then .next s
  else
    let s1 := s.modPair pair fun p =>
      { p with lockstep := satInc p.lockstep, parity := satAddW p.parity (boolNat (!cleanA) + boolNat (!cleanB)) }
    let none_ := s1.enter (s1.report 0x0310 true .step .seqPair pair.val 0xFFFFFFFF 0 0)
    let s2 := match s.sched.run, executing with
      | some n, some r => if (s1.flight n r).isSome then s1.failRef n r 0x0310 .step .seqPair pair.val else none_
      | _, _ => none_
    if recent || cleanA == cleanB then .next (s2.pairLeaves pair) else .next s2

/-- MC_LOCKSTEP_MISMATCH: the controller restarts; a second mismatch within 10^9 CCLK stops the block and ends the running job
as a warm reset would. -/
def execMcLockstepMismatch (recent : Bool) (s : State) : Host.Outcome State Fault Refusal :=
  if !s.functional || s.mgmt.boot.dead || s.mgmt.boot.stopped then .next s
  else if !recent then .next (s.modBoot fun b => { b with restarting := true })
  else
    let s1 := ((s.modBoot fun b => { b with stopped := true }).modPins fun p =>
      { p with svcDegraded := true, svcReplace := true }).raiseIrq 17
    match s1.sched.run with
    | none => .next s1
    | some n => if s1.resetQuiescing then .next s1 else .next ((s1.dropUnissued (s1.serves n)).startQuiesce .mcStop)

/-- MC_RESTART_DONE. -/
def execMcRestartDone (s : State) : Host.Outcome State Fault Refusal :=
  if !s.functional || !s.mgmt.boot.restarting then .next s
  else
    let s1 := s.modBoot fun b => { b with restarting := false }
    let s2 : State := { s1 with log := { s1.log with mcRestarts := satInc s1.log.mcRestarts } }
    .next (s2.event 0x0311 .mgmt 0 0)

end Sys2Proof.Machine
end

