-- ==== Sys2Proof/Machine/Registers.lean ====
section
/-! DEFINITION. The register map (chapter 16) and the register access port (R378, R379, R385): reads, writes and their effects. -/

namespace Sys2Proof.Machine

def word32 (v i : Nat) : Nat := v / 2 ^ (32 * i) % 2 ^ 32

/-! ### Reads -/

/-- Registers of the global block (Table 16-2). -/
def State.readGlobal (s : State) (a : Nat) : Option Nat :=
  let m := s.mgmt
  let cutBytes (b : List Byte) (o n : Nat) : Nat := if m.cut.isApplied then field b o n else 0
  if a = 0x00 then some Config.version.toNat
  else if a = 0x04 then some s.cutStatus
  else if a = 0x08 then some (boolNat m.rwl.isSealed + 2 * boolNat m.cut.sealOnBoot)
  else if a = 0x0C then some s.resetCause
  else if a = 0x10 then some 0
  else if a = 0x14 then some s.gradeWord
  else if a = 0x18 then some (allFacets.filter s.facetUp).length
  else if a = 0x1C then some m.rwl.shapeMenu.toNat
  else if a = 0x20 then some (word32 m.cut.serial.toNat 0)
  else if a = 0x24 then some (word32 m.cut.serial.toNat 1)
  else if a = 0x28 then some (cutBytes m.cut.mcFirmware 0 4)
  else if a = 0x2C then some (cutBytes m.cut.seqFirmware 0 4)
  else if 0x30 ≤ a ∧ a < 0x60 then some (field m.rwl.structDigest (a - 0x30) 4)
  else if 0x60 ≤ a ∧ a < 0x70 then some (word32 m.rwl.facetDisable.toNat ((a - 0x60) / 4))
  else if 0x70 ≤ a ∧ a < 0x80 then some (word32 m.fence.toNat ((a - 0x70) / 4))
  else if a = 0x80 then some m.rwl.polishPeriod.toNat
  else if a = 0x84 then some (pack [(boolNat m.polish.disable, 0), (boolNat m.polish.steal, 1)])
  else if a = 0x88 then some s.reliabilityStatus
  else if a = 0x8C then some (pack [(m.bounds.prefetchMin.toNat, 0), (m.bounds.dutyFloor.toNat, 8), (m.bounds.stretchMax.toNat, 12), (m.bounds.thermalTarget.toNat, 16)])
  else if a = 0x90 then some (word32 m.beat.observed.toNat 0)
  else if a = 0x94 then some (word32 m.beat.observed.toNat 1)
  else if a = 0x98 then some s.beatStatus
  else if a = 0x9C then some (cutBytes m.cut.structureBytes 0x12 2)
  else if a = 0xA0 then some m.beat.measured.toNat
  else if a = 0xA4 then some s.leadWord
  else if a = 0xA8 then some (cutBytes m.cut.structureBytes 0x240 4)
  else if a = 0xAC then some (cutBytes m.cut.structureBytes 0x244 4)
  else if a = 0xB0 then some (s.ringCfg 0)
  else if a = 0xB4 then some (s.ringCfg 1)
  else if 0xC0 ≤ a ∧ a < 0xD0 then some ((s.channels[(⟨(a - 0xC0) / 4 % 4, by omega⟩ : Fin 4)]).statusWord)
  else if 0xD0 ≤ a ∧ a < 0xE0 then some ((s.channels[(⟨(a - 0xD0) / 4 % 4, by omega⟩ : Fin 4)]).step.toNat)
  else if a = 0x100 then some m.irqStatus.toNat
  else if a = 0x104 then some m.irqEnable.toNat
  else if a = 0x110 then some (word32 m.submitBase.toNat 0)
  else if a = 0x114 then some (word32 m.submitBase.toNat 1)
  else if a = 0x120 then some s.runningWord
  else if a = 0x124 then some (jobMap s.isAdmitted)
  else if a = 0x128 then some (jobMap s.isSuspended)
  else if a = 0x12C then some 0
  else if 0x200 ≤ a ∧ a < 0x400 then
    let n : Fin 32 := ⟨(a - 0x200) / 16 % 32, by omega⟩
    match s.jobs[n] with
    | none => some 0
    | some j =>
      some (match a / 4 % 4 with
        | 0 => j.infoWord
        | 1 => word32 j.startBeat.toNat 0
        | 2 => word32 j.startBeat.toNat 1
        | _ => j.done.toNat)
  else if 0x8000 ≤ a ∧ a < 0x8800 then
    let n : Fin 256 := ⟨(a - 0x8000) / 8 % 256, by omega⟩
    some (if a % 8 = 0 then (s.clients[n]).submitted.toNat else (s.clients[n]).completed.toNat)
  else none

/-- Core block (Table 16-14). -/
def State.readCore (s : State) (c : Fin 32) (a : Nat) : Option Nat :=
  let k := s.cores[c]
  let retired := (((List.finRange 64).filter fun i => (k.slots[i]).retired).map fun i => 2 ^ i.val).sum
  let level (q : Nat) : Nat := if h : q < 16 then (k.hampers[q]).length else 0
  if a = 0x00 then some (s.coreStatus c)
  else if a = 0x04 then some k.counters.accSat.toNat
  else if a = 0x08 then some k.counters.deadlineMiss.toNat
  else if a = 0x0C then some k.counters.feederCheck.toNat
  else if a = 0x10 then some k.counters.drainCheck.toNat
  else if a = 0x14 then some k.counters.sbParity.toNat
  else if a = 0x18 then some k.counters.ctrlParity.toNat
  else if a = 0x20 then some (word32 retired 0)
  else if a = 0x24 then some (word32 retired 1)
  else if a = 0x30 then some (s.mgmt.pins.temps[c]).toNat
  else if 0x40 ≤ a ∧ a < 0x50 then
    let q := 4 * ((a - 0x40) / 4)
    some (pack [(level q, 0), (level (q + 1), 8), (level (q + 2), 16), (level (q + 3), 24)])
  else none

/-- Facet block (Table 16-15). -/
def State.readFacet (s : State) (g : Fin 128) (a : Nat) : Option Nat :=
  let f := s.facets[g]
  if a = 0x00 then some (s.facetStatus g)
  else if a = 0x04 then some f.counters.checkMismatch.toNat
  else if a = 0x08 then some f.counters.dualMismatch.toNat
  else if a = 0x0C then some f.counters.residue.toNat
  else if a = 0x10 then some f.counters.accStage.toNat
  else if a = 0x14 then some f.counters.replayLimit.toNat
  else if a = 0x18 then some f.counters.polish.toNat
  else if a = 0x1C then some f.counters.polishRepeat.toNat
  else if a = 0x20 then some (word32 f.polishBeat.toNat 0)
  else if a = 0x24 then some (word32 f.polishBeat.toNat 1)
  else none

/-- Ring-port block (Table 16-18). -/
def State.readRing (s : State) (p : Fin 4) (a : Nat) : Option Nat :=
  let r := s.ringPorts[p]
  if a = 0x00 then some (s.ringPortStatus p)
  else if a = 0x04 then some r.crcs.toNat
  else if a = 0x08 then some r.naks.toNat
  else if a = 0x0C then some r.trainFails.toNat
  else if a = 0x10 then some r.downs.toNat
  else if a = 0x14 then some r.adders.toNat
  else if a = 0x18 then some r.checksums.toNat
  else if a = 0x1C then some r.peerUid.toNat
  else if 0x20 ≤ a ∧ a < 0x30 then some (word32 r.downMask.toNat ((a - 0x20) / 4))
  else if a = 0x30 then some r.ucieRate.toNat
  else none

/-- Tile-port block (Table 16-19, R396). -/
def State.readTile (s : State) (p : Fin 32) (a : Nat) : Option Nat :=
  let t := s.tilePorts[p]
  if a = 0x00 then some t.statusWord
  else if a = 0x04 then some t.timeouts.toNat
  else if a = 0x08 then some t.protos.toNat
  else if a = 0x0C then some t.werrs.toNat
  else if a = 0x10 then some t.rdParity.toNat
  else if a = 0x14 then some t.rdPoison.toNat
  else if a = 0x18 then some t.windowRefusals.toNat
  else if a = 0x20 then some (word32 t.rdBeats.toNat 0)
  else if a = 0x24 then some (word32 t.rdBeats.toNat 1)
  else if a = 0x28 then some (word32 t.wrBeats.toNat 0)
  else if a = 0x2C then some (word32 t.wrBeats.toNat 1)
  else if 0x40 ≤ a ∧ a < 0xC0 then
    match s.running.bind fun x => x.2.desc.windows[(a - 0x40) / 16]? with
    | none => some 0
    | some w =>
      some (match a / 4 % 4 with
        | 0 => word32 w.base 0
        | 1 => word32 w.base 1
        | 2 => w.size / 4096
        | _ => pack [(boolNat w.far, 0), (boolNat w.rw, 1), (1, 2)])
  else none

/-- Sequencer-pair block (Table 16-22). -/
def State.readPair (s : State) (i : Fin 8) (a : Nat) : Option Nat :=
  let p := s.pairs[i]
  if a = 0x00 then some (s.seqStatus i)
  else if a = 0x04 then some p.lockstep.toNat
  else if a = 0x08 then some p.parity.toNat
  else if a = 0x0C then some p.lastIndex.toNat
  else if a = 0x10 then some p.itemsTaken.toNat
  else none

/-- Management-controller block (Table 16-24). -/
def State.readMgmt (s : State) (a : Nat) : Option Nat :=
  if a = 0x00 then some s.log.mcRestarts.toNat
  else if a = 0x04 then some s.log.count.toNat
  else if a = 0x08 then some s.log.oldest.toNat
  else if a = 0x10 then some s.log.sel.toNat
  else if a = 0x14 then some (boolNat s.log.selHeld)
  else if 0x20 ≤ a ∧ a < 0x40 then some ((s.log.data.getD ((a - 0x20) / 4) 0).toNat)
  else if 0x800 ≤ a ∧ a < 0xC50 then some (if s.mgmt.cut.isApplied then field s.mgmt.cut.structureBytes (a - 0x800) 4 else 0)
  else none

/-- Table 16-1: the register at an address; none where there is none. -/
def State.readReg (s : State) (a : Nat) : Option Nat :=
  if a % 4 ≠ 0 then none
  else if a < 0x10000 then s.readGlobal a
  else if 0x100000 ≤ a ∧ a < 0x200000 then
    let c : Fin 32 := ⟨(a - 0x100000) / 0x8000 % 32, by omega⟩
    let o := a % 0x8000
    if o < 0x1000 then s.readCore c o
    else if o < 0x5000 then s.readFacet (facetIx c ⟨(o / 0x1000 + 3) % 4, by omega⟩) (o % 0x1000)
    else none
  else if 0x200000 ≤ a ∧ a < 0x210000 then s.readRing ⟨a / 0x4000 % 4, by omega⟩ (a % 0x4000)
  else if 0x210000 ≤ a ∧ a < 0x218000 then s.readTile ⟨a / 0x400 % 32, by omega⟩ (a % 0x400)
  else if 0x220000 ≤ a ∧ a < 0x230000 then s.readPair ⟨a / 0x2000 % 8, by omega⟩ (a % 0x2000)
  else if 0x230000 ≤ a ∧ a < 0x240000 then s.readMgmt (a - 0x230000)
  else none

/-- The _LO registers of R385: the address of their _HI partner is 4 above. -/
def isLoReg (a : Nat) : Bool :=
  a == 0x20 || a == 0x90 || a == 0x110
    || (0x200 ≤ a && a < 0x400 && a % 16 == 4)
    || (0x100000 ≤ a && a < 0x200000 && a % 0x8000 < 0x5000 && a % 0x1000 == 0x20)
    || (0x210000 ≤ a && a < 0x218000 && (a % 0x400 == 0x20 || a % 0x400 == 0x28 || (0x40 ≤ a % 0x400 && a % 0x400 < 0xC0 && a % 16 == 0)))

/-- What a read returns: a latched _HI word if its _LO register was read before (R385). -/
def State.readPort (s : State) (a : Nat) : Option Nat :=
  match s.readReg a with
  | none => none
  | some v =>
    match s.mgmt.ra.latched.find? fun x => x.1 == a && 4 ≤ a && isLoReg (a - 4) with
    | some x => some x.2.toNat
    | none => some v

/-- A read access through the port (R378, R379). R385: a _LO register latches its _HI word, which the next read of _HI takes
(DEDUCED, log 59: one read). -/
def State.raRead (s : State) (a : Nat) : State :=
  match (if s.raServed then s.readPort a else none) with
  | none => s.raDone 0 true
  | some v =>
    let s1 := s.raDone (BitVec.ofNat 32 v) false
    let kept := s1.mgmt.ra.latched.filter fun x => !(x.1 == a || isLoReg a && x.1 == a + 4)
    let new := if isLoReg a then [(a + 4, BitVec.ofNat 32 ((s.readReg (a + 4)).getD 0))] else []
    { s1 with mgmt := { s1.mgmt with ra := { s1.mgmt.ra with latched := kept ++ new } } }

/-! ### Writes -/

def State.isApplied (s : State) : Bool := s.mgmt.boot.cutState == .applied

/-- RWL writes are accepted only in APPLIED and not sealed (R388). -/
def State.rwlOpen (s : State) : Bool := s.isApplied && !s.mgmt.rwl.isSealed

def State.modRwl (s : State) (f : Rwl → Rwl) : State := { s with mgmt := { s.mgmt with rwl := f s.mgmt.rwl } }
def State.modPolish (s : State) (f : Polish → Polish) : State := { s with mgmt := { s.mgmt with polish := f s.mgmt.polish } }

/-- CUT_SEAL (R37, R38): refused while the facets in the grade are no grade of Table 02-6. -/
def State.writeSeal (s : State) (v : Word) : Option State :=
  if !s.rwlOpen then none
  else if !v.getLsbD 0 then some s
  else if !isGrade s.gradeNow then none
  else some s.sealCut.enterReady

/-- FACET_DISABLE: only further bits (R38). -/
def State.writeDisable (s : State) (i : Nat) (v : Word) : Option State :=
  let old := word32 s.mgmt.rwl.facetDisable.toNat i
  if !s.rwlOpen || (old &&& v.toNat) ≠ old then none
  else
    let s1 := s.modRwl fun r => { r with facetDisable := r.facetDisable ||| BitVec.ofNat 128 (v.toNat * 2 ^ (32 * i)) }
    let off (g : Fin 128) (f : Facet) : Facet :=
      if s1.facetDisabled g then { f.blank with polishing := false, immediate := false, forced := false } else f
    some (State.setSwitches { s1 with facets := Vector.ofFn fun g => off g s1.facets[g] })

/-- SHAPE_MENU: clears bits other than SOLO (R38). -/
def State.writeMenu (s : State) (v : Word) : Option State :=
  let n := v.toNat % 128
  if !s.rwlOpen || (n &&& s.mgmt.rwl.shapeMenu.toNat) ≠ n || !n.testBit 0 then none
  else some (s.modRwl fun r => { r with shapeMenu := BitVec.ofNat 7 n })

/-- POLISH_PERIOD: may only be lowered, within its range (R38). -/
def State.writePeriod (s : State) (v : Word) : Option State :=
  let n := v.toNat % 8192
  if !s.rwlOpen || n > s.mgmt.rwl.polishPeriod.toNat || n < 1000 then none
  else some (s.modRwl fun r => { r with polishPeriod := BitVec.ofNat 13 n })

/-- POLISH_CTL (R350): 0x030A at each change of disable; disabling stops all polish; `now` gives every facet in service an
immediate polish, but in FAILED, where every core is idle (R43). -/
def State.writePolishCtl (s : State) (disable steal now : Bool) : State :=
  let changed := s.mgmt.polish.disable != disable
  let s1 := s.modPolish fun p =>
    { p with disable := disable, steal := steal, owed := if changed && !disable then s.facetsUp else p.owed }
  let s2 := if changed then s1.event 0x030A .block 0 0 else s1
  let still (f : Facet) : Facet := { f with polishing := false, immediate := false, forced := false }
  let s3 : State := if disable then { s2 with facets := s2.facets.map still } else s2
  if now && !disable && s.mgmt.boot.cutState ≠ .failed then
    let ask (g : Fin 128) (f : Facet) : Facet := if s3.facetUp g then { f with immediate := true } else f
    let s4 : State := { s3 with facets := Vector.ofFn fun g => ask g s3.facets[g] }
    allCores.foldl (fun s c => s.startPolishes c) s4
  else s3

/-- ADAPT_BOUNDS (R345, Table 14-4): refused outside a field's range and before a cut is applied. -/
def State.writeBounds (s : State) (v : Word) : Option State :=
  let n := v.toNat
  let pmin := bits n 4 0
  let floor := bits n 11 8
  let st := bits n 15 12
  let tgt := bits n 23 16
  if !s.mgmt.cut.isApplied || pmin < 1 || s.depthMax < pmin || floor < 1 || floor > 8 || st < 1 || tgt < 60
      || tgt + 5 > u8 s.mgmt.cut.operating 0x28 then none
  else
    some { s with mgmt := { s.mgmt with
      loops := { s.mgmt.loops with narrowed := s.mgmt.loops.narrowed || st < s.mgmt.bounds.stretchMax.toNat }
      bounds := { prefetchMin := BitVec.ofNat 5 pmin, dutyFloor := BitVec.ofNat 4 floor, stretchMax := BitVec.ofNat 4 st, thermalTarget := BitVec.ofNat 8 tgt } } }

/-- INCL_SEL (R398). -/
def State.writeSel (s : State) (v : Word) : State :=
  let l := s.log
  let back := (l.count - v).toNat
  let rec_ := if 1 ≤ back ∧ back ≤ l.records.length then l.records[l.records.length - back]? else none
  let data := match rec_ with
    | some r => (List.range 8).map fun i => w32 r.bytes (4 * i)
    | none => List.replicate 8 0
  { s with log := { l with sel := v, selHeld := rec_.isSome, data := data } }

/-- JOB_ABORT acts on a job that is admitted (R327, R394). The running job keeps its pre-emption until it has quiesced (Table 16-12). DESIGN CHOICE (log 149):
a waiting or suspended job ends at once while another quiesces, and its record's requests go out. -/
def State.abortJob (s : State) (n : Fin 32) : State :=
  match s.jobs[n] with
  | none => s
  | some _ =>
    let ev := s.enter (s.ofJob n (s.report 0x060D false .none .block 0 0xFFFFFFFF 0 0))
    if s.sched.run = some n then
      if s.mgmt.quiesce.isSome then s
      else
        ((ev.dropUnissued fun q => q.origin == .save || q.origin == .restore).startQuiesce .abort).stopFeeding n
    else
      let s1 := ev.writeRecord n 5
      if s1.bucketsOf n then
        s1.modJob n fun j => { j with state := .ending, ended := true, saved := none, flight := j.flight.filter fun f => f.op = .reduce }
      else s1.releaseJob n

def State.writeAbort (s : State) (v : Word) : Option State :=
  let n : Fin 32 := ⟨v.toNat % 32, by omega⟩
  if s.isAdmitted n then some (s.abortJob n) else none

/-- SUBMIT_TABLE_BASE (R385, R391): a write of _HI is staged and committed with _LO. -/
def State.writeBase (s : State) (hi : Bool) (v : Word) : State :=
  let ra := s.mgmt.ra
  if hi then
    { s with mgmt := { s.mgmt with ra := { ra with staged := (ra.staged.filter fun x => !(x.1 == 0x114)) ++ [(0x114, v)] } } }
  else
    let h : Word := match ra.staged.find? fun x => x.1 == 0x114 with | some x => x.2 | none => 0
    let b : DWord := h.zeroExtend 64 <<< 32 ||| (v &&& 0xFFFFF000).zeroExtend 64
    { s with mgmt := { s.mgmt with submitBase := b, ra := { ra with staged := ra.staged.filter fun x => !(x.1 == 0x114) } } }

/-- BLOCK_RESET: only the highest-ranked bit counts (R392). -/
def State.writeReset (s : State) (v : Word) : State :=
  if v.getLsbD 0 then s.registerCold true
  else if v.getLsbD 1 then s.registerWarm
  else if v.getLsbD 2 then s.registerJob
  else s

/-- The effect of a write to a register; none where it is refused with `ra_error` (R379, R384, R388). -/
def State.writeReg (s : State) (a : Nat) (v : Word) : Option State :=
  if a = 0x08 then s.writeSeal v
  else if a = 0x10 then some (s.writeReset v)
  else if a = 0x1C then s.writeMenu v
  else if a % 4 = 0 ∧ 0x60 ≤ a ∧ a < 0x70 then s.writeDisable ((a - 0x60) / 4) v
  else if a = 0x80 then s.writePeriod v
  else if a = 0x84 then some (s.writePolishCtl (v.getLsbD 0) (v.getLsbD 1) (v.getLsbD 2))
  else if a = 0x88 then
    some (s.modPolish fun p =>
      { p with tripSeen := p.tripSeen && !v.getLsbD 3, droopExceeded := p.droopExceeded && !v.getLsbD 4 })
  else if a = 0x8C then s.writeBounds v
  else if a = 0x98 then
    some (s.modBeat fun b =>
      { b with jumped := b.jumped && !v.getLsbD 2, ignored := b.ignored && !v.getLsbD 3, offPeriod := b.offPeriod && !v.getLsbD 4 })
  else if a = 0x100 then some { s with mgmt := { s.mgmt with irqStatus := s.mgmt.irqStatus &&& ~~~v } }
  else if a = 0x104 then some { s with mgmt := { s.mgmt with irqEnable := v &&& irqMask } }
  else if a = 0x110 then some (s.writeBase false v)
  else if a = 0x114 then some (s.writeBase true v)
  else if a = 0x12C then s.writeAbort v
  else if a = 0x230010 then some (s.writeSel v)
  else none

/-- A write access through the port: it completes before a reset that it requests takes effect, so the outcome is set first. -/
def State.raWrite (s : State) (a : Nat) (v : Word) : State :=
  if !s.raServed then s.raDone 0 true
  else
    match (s.raDone 0 false).writeReg a v with
    | none => s.raDone 0 true
    | some t => t

/-- CUT_SEAL: a write of 1 to CUT_SEAL.seal. -/
def execCutSeal (s : State) : Host.Outcome State Fault Refusal := .next (s.raWrite 0x08 1)

/-- RWL_NARROW_WRITE. -/
def execRwlNarrowWrite (addr : BitVec 24) (value : Word) (s : State) : Host.Outcome State Fault Refusal :=
  .next (s.raWrite addr.toNat value)

/-- POLISH_DISABLE: a write of POLISH_CTL with `now` 0. -/
def execPolishDisable (disable steal : Bool) (s : State) : Host.Outcome State Fault Refusal :=
  .next (s.raWrite 0x84 (BitVec.ofNat 32 (boolNat disable + 2 * boolNat steal)))

/-- POLISH_NOW: a write of POLISH_CTL with `now` 1. -/
def execPolishNow (disable steal : Bool) (s : State) : Host.Outcome State Fault Refusal :=
  .next (s.raWrite 0x84 (BitVec.ofNat 32 (boolNat disable + 2 * boolNat steal + 4)))

/-- ADAPT_BOUNDS_WRITE. -/
def execAdaptBoundsWrite (value : Word) (s : State) : Host.Outcome State Fault Refusal := .next (s.raWrite 0x8C value)

/-- IRQ_STATUS_CLEAR. -/
def execIrqStatusClear (value : Word) (s : State) : Host.Outcome State Fault Refusal := .next (s.raWrite 0x100 value)

/-- JOB_ABORT. -/
def execJobAbort (value : Word) (s : State) : Host.Outcome State Fault Refusal := .next (s.raWrite 0x12C value)

/-- INCL_SEL_WRITE. -/
def execInclSelWrite (value : Word) (s : State) : Host.Outcome State Fault Refusal := .next (s.raWrite 0x230010 value)

/-- PAIR_LO_READ: a read access; a _LO register also latches its _HI word. -/
def execPairLoRead (addr : BitVec 24) (s : State) : Host.Outcome State Fault Refusal := .next (s.raRead addr.toNat)

/-- REGISTER_WRITE. -/
def execRegisterWrite (addr : BitVec 24) (value : Word) (s : State) : Host.Outcome State Fault Refusal :=
  .next (s.raWrite addr.toNat value)

end Sys2Proof.Machine
end

