-- ==== Sys2Proof/Machine/Health.lean ====
section
/-! DEFINITION. Polish (R336 to R338), the adaptive loops (R346 to R349) and the
test wrapper (R381 to R383). -/

namespace Sys2Proof.Machine

/-- The management controller works: not held, restarting or stopped. -/
def State.mcRuns (s : State) : Bool := s.raServed && !s.mgmt.boot.stopped

/-! ### Polish -/

/-- The polish of a facet has passed its sixtieth step (R336). A forced polish counts for the cycle that its slot closes, so the
new cycle starts unpolished (DEDUCED, log 13). -/
def State.polishDone (s : State) (g : Fin 128) : State :=
  let rep := (s.facets[g]).repeating
  let s1 := s.modFacet g fun f =>
    { f with
      step := 0
      check := []
      polishing := false
      repeating := false
      immediate := false
      forced := false
      polished := f.polished || !f.forced
      polishBeat := s.beatNow
      counters := { f.counters with polish := satInc f.counters.polish,
                                    polishRepeat := if rep then satInc f.counters.polishRepeat else f.counters.polishRepeat } }
  let s2 := s1.modPolish fun p => { p with owed := p.owed &&& ~~~((1 : BitVec 128) <<< g.val) }
  if rep then s2.event 0x0308 .facet g.val 0 else s2

/-- A step leaves its signature in the register; the spec gives no value of one, so it is a free value (R336, R382; log 163). -/
def State.freshSignature (s : State) (g : Fin 128) : State :=
  let v : DWord := Config.freeWord s.fresh ++ Config.freeWord (s.fresh + 1)
  ({ s with fresh := s.fresh + 2 } : State).modFacet g fun f => { f with signature := v }

/-- POLISH_STEP_END: while k is 0 the clock enables stay low and no step ends (R349). A passing step counts; a failing one restarts the polish, or fences the facet in its repeat. A stolen
polish yields after each step. -/
def execPolishStepEnd (facet : Fin 128) (signatureOk : Bool) (s : State) : Host.Outcome State Fault Refusal :=
  let f := s.facets[facet]
  let s1 := s.freshSignature facet
  if !s.ready || !f.polishing || !s.facetUp facet || s.dutyInForce = 0 then .next s
  else if signatureOk then
    if f.step.toNat + 1 ≥ 60 then .next (s1.polishDone facet)
    else .next (s1.modFacet facet fun f => { f with step := f.step + 1, polishing := f.forced || f.immediate })
  else if f.repeating then .next (s1.fenceFacet facet none (f.step.toNat + 1) 0)
  else
    .next (s1.modFacet facet fun f =>
      { f with failStep := f.step + 1, step := 0, repeating := true, polishing := f.forced || f.immediate })

/-- R337: polish cycles of P_b beats from the beat of READY; the slot of core c is floor(c × P_b / 32) beats into each. Answers the cycle whose slot
is the last reached. -/
def State.slotCycle (s : State) (c : Fin 32) : Option Nat :=
  let pb := s.mgmt.rwl.polishPeriod.toNat * 1000 / s.beatPeriod
  let since := s.beatNow.toNat - (s.mgmt.beat.readyBeat.toNat + c.val * pb / 32)
  if s.beatNow.toNat < s.mgmt.beat.readyBeat.toNat + c.val * pb / 32 then none else some (since / pb)

/-- A forced slot of the core has begun that it has not taken. -/
def State.slotReached (s : State) (c : Fin 32) : Bool := (s.slotCycle c).isSome && s.slotCycle c != s.cores[c].lastSlot

/-- POLISH_FORCED_SLOT: facets whose polish is not complete for the cycle run their remaining steps; the others begin a new
cycle. -/
def execPolishForcedSlot (core : Fin 32) (s : State) : Host.Outcome State Fault Refusal :=
  if !s.ready || s.mgmt.polish.disable || s.mgmt.beat.stalled || !s.slotReached core then .next s
  else
    let slot (f : Facet) : Facet :=
      if f.polished then
        { f with polished := false, suppressedPasses := 0, step := if f.immediate then f.step else 0,
                 polishing := f.polishing && f.immediate, repeating := f.repeating && f.immediate }
      else { f with forced := true, suppressedPasses := 0 }
    let s0 := s.modCore core fun k => { k with lastSlot := s.slotCycle core }
    let s1 := (s0.coreFacets core).foldl (fun s f => s.modFacet (facetIx core f) slot) s0
    .next (s1.startPolishes core)

/-! ### Thermal (R346, R349) -/

/-- A temperature in °C in the units of the sensors: 0.25 °C from −40 °C. -/
def tempUnits (c : Nat) : Nat := (c + 40) * 4

/-- A reading with its sensor's trim applied, held in its 10 bits. -/
def State.corrected (s : State) (i : Fin 32) (raw : BitVec 10) : BitVec 10 :=
  let off : Int := if s.mgmt.cut.isApplied then (BitVec.ofNat 8 (u8 s.mgmt.cut.operating (8 + i.val))).toInt else 0
  let v := (raw.toNat : Int) + off
  if v < 0 then 0 else if v > 1023 then 1023 else BitVec.ofInt 10 v

def State.hottest (s : State) : Nat := (s.mgmt.pins.temps.toList.map (·.toNat)).foldl Nat.max 0

def State.modLoops (s : State) (f : Loops → Loops) : State := { s with mgmt := { s.mgmt with loops := f s.mgmt.loops } }

/-- Trips the arrays, or ends a trip once every reading has fallen. -/
def State.thermalCheck (s : State) : State :=
  let trip := u8 s.mgmt.cut.operating 0x28
  if !s.mgmt.cut.isApplied then s
  else if !s.mgmt.loops.tripped && s.hottest ≥ tempUnits trip then
    let s1 := ((s.modLoops fun l => { l with tripped := true }).modPins fun p => { p with trip := true }).modPolish fun p => { p with tripSeen := true }
    s1.event 0x030B .block 0 (BitVec.ofNat 32 s.hottest)
  else if s.mgmt.loops.tripped && s.hottest < tempUnits (trip - 5) then
    let s1 := (s.modLoops fun l => { l with tripped := false, duty := s.mgmt.bounds.dutyFloor }).modPins fun p => { p with trip := false }
    allCores.foldl (fun s c => s.startPolishes c) s1
  else s

/-- THERMAL_SENSOR_UPDATE. -/
def execThermalSensorUpdate (readings : List (BitVec 10)) (s : State) : Host.Outcome State Fault Refusal :=
  if !s.mcRuns then .next s
  else .next (s.modPins fun p => { p with temps := Vector.ofFn fun i => s.corrected i (readings.getD i.val 0) }).thermalCheck

/-- THERMAL_LOOP, once per beat: k moves by one towards the target, within duty_floor and 8. -/
def State.thermalLoop (s : State) : State :=
  let t := s.mgmt.bounds.thermalTarget.toNat
  let k := s.mgmt.loops.duty.toNat
  let floor := s.mgmt.bounds.dutyFloor.toNat
  let k1 := if s.hottest > tempUnits t then k - 1 else if s.hottest < tempUnits (t - 2) then k + 1 else k
  if s.mgmt.loops.tripped || !s.mcRuns then s
  else s.modLoops fun l => { l with duty := BitVec.ofNat 4 (Nat.min 8 (Nat.max floor k1)) }

/-- THROTTLE_INPUT: caps k at 8 − n. -/
def execThrottleInput (n : BitVec 3) (s : State) : Host.Outcome State Fault Refusal := .next (s.modPins fun p => { p with throttle := n })

/-! ### Droop (R347, R349, R357) -/

/-- The stretch from which the loop decides: one above a bound that was narrowed since falls to the bound (R345). -/
def State.stretchNow (s : State) : Nat :=
  let l := s.mgmt.loops
  if l.narrowed && !l.excursion then Nat.min l.stretch s.mgmt.bounds.stretchMax.toNat else l.stretch

/-- DROOP_DETECT: `needed` is the stretch, in sixteenths, at which the supply would lie above threshold again. -/
def execDroopDetect (quadrants : BitVec 4) (pin : Bool) (needed : Nat) (s : State) : Host.Outcome State Fault Refusal :=
  if !s.functional || (quadrants = 0 && !pin) then .next s
  else
    let s1 := s.modPins fun p => { p with droopDet := p.droopDet ||| quadrants, droopIn := p.droopIn || pin }
    let bound := s.mgmt.bounds.stretchMax.toNat
    let n := Nat.max s.stretchNow (Nat.max 1 (Nat.min needed 16))
    let s2 := s1.modLoops fun l => { l with stretch := n, narrowed := false }
    if needed > bound && !s.mgmt.loops.excursion then
      .next (((s2.modLoops fun l => { l with excursion := true }).modPolish fun p => { p with droopExceeded := true }).event 0x030C .block 0 0)
    else .next s2

/-- SUPPLY_RECOVERS: the excursion ends. -/
def execSupplyRecovers (s : State) : Host.Outcome State Fault Refusal :=
  .next ((s.modPins fun p => { p with droopDet := 0, droopIn := false }).modLoops fun l => { l with excursion := false })

/-- DROOP_RECOVERY_STEP: one sixteenth of stretch returns. -/
def execDroopRecoveryStep (s : State) : Host.Outcome State Fault Refusal :=
  if !s.functional || s.mgmt.pins.droopDet ≠ 0 || s.mgmt.pins.droopIn then .next s else .next (s.modLoops fun l => { l with stretch := if s.stretchNow < l.stretch then s.stretchNow else l.stretch - 1, narrowed := false })

/-! ### Prefetch depth (R348) -/

/-- PREFETCH_LOOP. -/
def execPrefetchLoop (starved twoFree waited : BitVec 32) (s : State) : Host.Outcome State Fault Refusal :=
  if !s.ready then .next s
  else
    let hi := s.depthMax
    let lo := Nat.min s.mgmt.bounds.prefetchMin.toNat hi
    let turn (c : Fin 32) (k : Core) : Core :=
      let d := if starved.getLsbD c.val && twoFree.getLsbD c.val then k.depth + 1 else if waited.getLsbD c.val then k.depth - 1 else k.depth
      if k.inService then { k with depth := Nat.max lo (Nat.min hi d) } else k
    .next { s with cores := Vector.ofFn fun c => turn c s.cores[c] }

/-! ### The test wrapper -/

/-- What stands between WSI and WSO (R381). -/
inductive WrapperPath
  | bypassBit | boundaryCells | scanGroups | network
deriving DecidableEq, Repr

def wrapperPath : WrapperInst → WrapperPath
  | .bypass => .bypassBit
  | .extest _ => .boundaryCells
  | .intestScan _ _ => .scanGroups
  | .ijtag _ => .network

/-- WPC[0] is scan enable: the functional clocks shift. -/
def shiftsState : WrapperInst → Bool
  | .intestScan _ wpc => wpc.getLsbD 0
  | _ => false

/-- An access to the IEEE 1687 network: the signature register of a facet is read out on WSO, its polish engine takes one step, or its step is set. The memory
BIST changes nothing that the spec tells (log 111). -/
def State.ijtag (s : State) : IjtagAccess → State
  | .bist _ => s
  | .readSignature g => s.modPins fun p => { p with wso := p.wso ++ [(s.facets[g]).signature] }
  | .singleStep g => (s.freshSignature g).modFacet g fun f => { f with step := if f.step.toNat + 1 ≥ 60 then 0 else f.step + 1 }
  | .forceStep g k => s.modFacet g fun f => { f with step := k }

/-- WRAPPER_INSTRUCTION: once the cut is sealed any instruction loads WS_BYPASS (R382). A boot that waited for functional mode begins with it (R383; log
151). -/
def execWrapperInstruction (inst : WrapperInst) (s : State) : Host.Outcome State Fault Refusal :=
  let i := if s.mgmt.rwl.isSealed then .bypass else inst
  let s1 := s.modPins fun p => { p with wrapper := i, wso := [], scanned := p.scanned || shiftsState i }
  let s2 := match i with | .ijtag l => l.foldl State.ijtag s1 | _ => s1
  match s2.mgmt.boot.held with
  | some ok => .next (if s2.functional then s2.bootStart false ok else s2)
  | none => .next s2

end Sys2Proof.Machine
end

