-- ==== Sys2Proof/Machine/Jobs.lean ====
section
/-! DEFINITION. Submission and admission (R261 to R263, R307 to R312), slices and pre-emption (R314 to R320), the save area
(R321 to R324), restore (R325, R326) and teardown (R328). -/

namespace Sys2Proof.Machine

/-! ### Submission rings -/

/-- A client table entry: ring_base and size_log2 where the entry is valid and enabled. `ok` is false for an invalid one. -/
structure ClientRing where
  base : Nat
  sizeLog : Nat
  enabled : Bool
  ok : Bool
deriving DecidableEq, Repr

/-- The entry of a client in the table at `base`. -/
def State.clientRing (s : State) (base : Nat) (n : Fin 256) : ClientRing :=
  let b := s.near (base + 32 * n.val) 32
  let en := u8 b 9
  { base := u64 b 0, sizeLog := u8 b 8, enabled := en != 0
    ok := en == 1 && u64 b 0 % 64 == 0 && 3 ≤ u8 b 8 && u8 b 8 ≤ 12 && zeroRange b 10 22 }

def State.ringHead (s : State) (r : ClientRing) : Word := BitVec.ofNat 32 (s.ext.near.field r.base 4)
def State.ringTail (s : State) (r : ClientRing) : Word := BitVec.ofNat 32 (s.ext.near.field (r.base + 0x20) 4)

/-- The address of the entry at the tail of a ring (R262). -/
def State.tailAt (s : State) (base sizeLog : Nat) : Nat :=
  base + 64 + 64 * (s.ext.near.field (base + 0x20) 4 % 2 ^ sizeLog)

/-- The lead pair scans and admits: a lead pair, a running block, no quiescing, and no fault report that it holds (R404). -/
def State.admits (s : State) : Bool := s.ready && s.canWork && s.mgmt.lead.valid && s.mgmt.quiesce.isNone && !s.unitHeld .seqPair s.leadIx

/-- Admitted jobs: one whose completion record is written counts no longer (R309). -/
def State.jobCount (s : State) : Nat := ((List.finRange 32).filter s.isAdmitted).length
def State.takenCount (s : State) : Nat := (s.clients.toList.filter fun c => (c.taken.map fun t => !t.waiting).getD false).length

def State.clientReport (s : State) (n : Fin 256) (code : Half) (fault : Bool) (scope : Scope) : State :=
  let r := s.report code fault scope .client n.val 0xFFFFFFFF 0 0
  s.enter { r with job := none, client := BitVec.ofNat 8 n.val }

/-- An enabled client whose entry and head are as R262 asks. -/
def State.headOk (s : State) (r : ClientRing) : Bool := r.ok && (s.ringHead r - s.ringTail r).toNat ≤ 2 ^ r.sizeLog

/-- A beat that the scan has read came back unusable. -/
def State.scanBad (s : State) (a : Nat) : Bool := s.scan.bad.contains (a / 512)

/-- The client's entry as the scan in progress has read it. DESIGN CHOICE (log 141): an entry in a beat that came back with poison or a parity error is
invalid, and so is a head in one. -/
def State.scanRing (s : State) (n : Fin 256) : ClientRing :=
  let r := s.clientRing s.scan.base n
  { r with ok := r.ok && !s.scanBad (s.scan.base + 32 * n.val) }

def State.scanOk (s : State) (r : ClientRing) : Bool := s.headOk r && !s.scanBad r.base

/-- The scan reads the head of every enabled client, in ascending client order (R261). -/
def State.scanHeads (s : State) : State :=
  (List.finRange 256).foldl (fun s n =>
    let r := s.scanRing n
    if r.enabled && r.ok then s.extFetch 0 .scan false r.base 64 [] else s) s

/-- An enabled client that is invalid, or whose head is, records 0x010C (R262). -/
def State.checkHead (s : State) (n : Fin 256) : State :=
  let r := s.scanRing n
  if r.enabled && !s.scanOk r then s.clientReport n 0x010C false .none else s

/-- A client's oldest untaken entry is taken while places remain, and read (R309). An entry that waits for a ring is taken again (R311). -/
def State.takeEntry (s : State) (n : Fin 256) : State :=
  let r := s.scanRing n
  let c := s.clients[n]
  if !r.enabled || !s.scanOk r || s.ringHead r = s.ringTail r || (c.taken.map fun t => !t.waiting || !t.whole).getD false then s
  else if s.jobCount + s.takenCount ≥ 32 then s
  else
    let t : Taken :=
      { entry := (c.taken.map (·.entry)).getD [], since := (c.taken.map (·.since)).getD s.scan.beat
        waiting := (c.taken.map (·.waiting)).getD false, base := r.base, sizeLog := r.sizeLog, whole := false, bad := false }
    (s.modClient n fun c => { c with taken := some t }).extFetch 0 (.client n) false (s.tailAt r.base r.sizeLog) 64 []

/-- The heads have been read: they are checked, and entries are taken in ascending order from client b mod 256, where b is the scan's beat (R309). -/
def State.scanEntries (s : State) : State :=
  let b := s.scan.beat.toNat % 256
  let s1 := (List.finRange 256).foldl (fun s n => s.checkHead n) s
  let s2 := (List.range 256).foldl (fun s i => s.takeEntry ⟨(b + i) % 256, by omega⟩) s1
  { s2 with scan := Scan.reset }

/-- The scan goes on once its reads have come (R261); a block that admits no job leaves it. -/
def State.scanStep (s : State) : State :=
  if s.scan.phase = .idle || s.reading .scan then s
  else if !s.admits then { s with scan := Scan.reset }
  else if s.scan.phase = .table then
    let s1 := ({ s with scan := { s.scan with phase := .heads } } : State).scanHeads
    if s1.reading .scan then s1 else s1.scanEntries
  else s.scanEntries

/-- SUBMISSION_SCAN: at the first CCLK of a beat the scan reads the client table (R261, R391). DESIGN CHOICE (log 141): none starts while the last one still
waits for its reads. -/
def State.startScan (s : State) : State :=
  if s.mgmt.submitBase = 0 || !s.admits || s.scan.phase ≠ .idle then s
  else
    ({ s with scan := { phase := .table, base := s.mgmt.submitBase.toNat, beat := s.beatNow, bad := [] } } : State).extFetch 0 .scan false
      s.mgmt.submitBase.toNat 8192 []

/-- The entry of a client has been read, and its job descriptor is read (R310); a block that admits no job leaves the entry untaken. -/
def State.entryRead (s : State) (n : Fin 256) : State :=
  match (s.clients[n]).taken with
  | none => s
  | some t =>
    if t.whole || s.reading (.client n) then s
    else if !s.admits then s.modClient n fun c => { c with taken := if t.waiting then some { t with whole := true } else none }
    else
      let e := s.near (s.tailAt t.base t.sizeLog) 64
      let s1 := s.modClient n fun c => { c with taken := some { t with entry := e, whole := true } }
      if t.bad then s1 else s1.extFetch 0 (.client n) false (u64 e 0) 256 []

/-! ### The job descriptor (Tables 11-2 and 13-1) -/

def readWindow (d : List Byte) (i : Nat) : Window :=
  let o := 0x80 + 16 * i
  { base := u64 d o, size := u32 d (o + 8) * 4096, far := bit (u8 d (o + 12)) 0, rw := bit (u8 d (o + 12)) 1 }

def readJobDesc (d e : List Byte) : JobDesc where
  latency := u8 d 0 == 1
  exclusive := u8 d 1 == 1
  windows := (List.range (u8 d 2)).map (readWindow d)
  descTable := u64 d 8
  descCount := u16 d 0x10
  cheapWait := u32 d 0x14
  cheapBase := u64 d 0x18
  cheapCount := u32 d 0x28
  saveBase := u64 d 0x20
  saveFar := u8 d 0x2C == 1
  ringA := bit (u8 d 0x2D) 0
  ringB := bit (u8 d 0x2D) 1
  overrideMask := BitVec.ofNat 8 (u8 d 0x2E)
  overrides := (d.drop 0x50).take 48
  exclA := BitVec.ofNat 128 (field d 0x30 16)
  exclB := BitVec.ofNat 128 (field d 0x40 16)
  planBase := u64 e 8
  baseStep := u32 e 0x10
  completion := u64 e 0x18
  statusBase := u64 e 0x20
  cookie := w64 e 0x28

/-- Check 1 of Table 13-2: fields of the descriptor, and of the entry (DEDUCED, log 14). -/
def jobFieldsOk (d e : List Byte) : Bool :=
  let win (i : Nat) : Bool :=
    let o := 0x80 + 16 * i
    if i < u8 d 2 then u64 d o % 4096 == 0 && u32 d (o + 8) != 0 && u8 d (o + 12) ≤ 3 && zeroRange d (o + 13) 3
    else zeroRange d o 16
  u64 e 0 % 256 == 0 && u64 e 8 % 4096 == 0 && u32 e 0x10 != 0 && zeroRange e 0x14 4 && u64 e 0x18 % 64 == 0 && zeroRange e 0x30 16
    && u8 d 0 ≤ 1 && u8 d 1 ≤ 1 && 1 ≤ u8 d 2 && u8 d 2 ≤ 8 && zeroRange d 3 1 && u64 d 8 % 64 == 0 && u16 d 0x10 != 0
    && zeroRange d 0x12 2 && u64 d 0x18 % 512 == 0 && u8 d 0x2C ≤ 1 && u8 d 0x2D ≤ 3 && u8 d 0x2E < 32 && zeroRange d 0x2F 1
    && zeroRange d 0x79 7 && (List.range 8).all win

/-- Check 2: overrides and exclusion masks (R200, R308). -/
def State.overridesOk (s : State) (j : JobDesc) : Bool :=
  let o := j.overrides
  let on (i : Nat) : Bool := j.overrideMask.getLsbD i
  let excl (named : Bool) (r : Nat) (m : BitVec 128) : Bool := !named || (!m.getLsbD (s.ringPos r) && m.toNat / 2 ^ s.ringMembers r == 0)
  (!on 0 || gangingOk o s.mgmt.rwl.shapeMenu.toNat) && (!on 2 || 1 ≤ u16 o 0x24) && (!on 3 || 1 ≤ u16 o 0x26)
    && (!on 4 || (1 ≤ u8 o 0x28 && u8 o 0x28 ≤ 32)) && excl j.ringA 0 j.exclA && excl j.ringB 1 j.exclB

/-- Checks 3 and 4. -/
def placementOk (j : JobDesc) : Bool :=
  j.mayRead false j.planBase 64 && j.mayRead false j.descTable 64 && (j.cheapBase == 0 || j.mayRead false j.cheapBase 64)
    && j.mayWrite false j.completion 64 && (j.statusBase == 0 || j.mayWrite false j.statusBase 1)
    && (j.exclusive || j.windows.all fun w => !(w.far && w.rw))

def Window.meets (a b : Window) : Bool := a.far == b.far && a.base < b.base + b.size && b.base < a.base + a.size

def saveSize : Nat := 0x0A281000

def JobDesc.saveWindow (j : JobDesc) : Window := { base := j.saveBase, size := saveSize, far := j.saveFar, rw := true }

/-- The admitted jobs (R309). -/
def State.placed (s : State) : List Job := ((List.finRange 32).filter s.isAdmitted).filterMap fun n => s.jobs[n]

/-- Check 5. -/
def State.conflictFree (s : State) (c : Fin 256) (j : JobDesc) : Bool :=
  s.placed.all fun o => o.client == c || j.windows.all fun a => o.desc.windows.all fun b => !(a.meets b && (a.rw || b.rw))

/-- Check 6. -/
def State.saveOk (s : State) (j : JobDesc) : Bool :=
  if j.saveBase == 0 then j.latency
  else
    j.saveBase % 0x20000 == 0 && j.windows.all (fun w => !j.saveWindow.meets w)
      && s.placed.all fun o => o.desc.windows.all (fun w => !j.saveWindow.meets w) && (o.desc.saveBase == 0 || !j.saveWindow.meets o.desc.saveWindow)

/-- Checks 1 to 6 of Table 13-2 in order: the refusal code of the first that fails. -/
def State.admissionCode (s : State) (c : Fin 256) (d e : List Byte) (bad : Bool) : Option Half :=
  let j := readJobDesc d e
  if bad || !jobFieldsOk d e || !s.overridesOk j then some 0x0601
  else if !placementOk j || !s.conflictFree c j then some 0x0602
  else if !s.saveOk j then some 0x0604
  else none

/-- Check 7. -/
def State.ringsReady (s : State) (j : JobDesc) : Bool := (!j.ringA || s.ringUp 0) && (!j.ringB || s.ringUp 1)

/-! ### Taking and refusing -/

/-- The tail passes an entry (R263, R316). -/
def State.passEntry (s : State) (n : Fin 256) (base : Nat) : State :=
  (s.blockWrite (base + 0x20) (leBytes 4 (s.ext.near.field (base + 0x20) 4 + 1))).modClient n fun c =>
    { c with taken := none, submitted := c.submitted + 1 }

/-- R312. The record's fault_index and fault_label are free values. -/
def State.refuse (s : State) (n : Fin 256) (t : Taken) (code : Half) : State :=
  let e := t.entry
  let s1 := (s.passEntry n t.base).clientReport n code true .entry
  if u64 e 0x18 % 64 ≠ 0 then (s1.clientReport n 0x0605 false .none).countCompleted n
  else
    let b := recordBytes (w64 e 0x28) (u32 e 0x10 + 2 ^ 32 - 1) 0 code (Config.freeWord s1.fresh) (Config.freeWord (s1.fresh + 1)) s1.beatNow s1.beatNow 4
    ({ s1 with fresh := s1.fresh + 2 }.putRecord (u64 e 0x18) b).countCompleted n

/-! ### Pre-emption requests (R314 to R320) -/

/-- R318: one event 0x0606 for each command in flight that cannot be pre-empted now. -/
def State.overruns (s : State) (n : Fin 32) (overrun : Nat) : State :=
  match s.jobs[n] with
  | none => s
  | some j =>
    let steps := (List.finRange 4).filterMap (s.ringStepBusy n)
    let cmds := (j.flight.filter fun f => f.unsplit && !f.endsBad) ++ steps.filter fun f => !f.unsplit
    let d := BitVec.ofNat 32 (Nat.min overrun 0xFFFFFFFF)
    cmds.foldl (fun s f => s.cmdEvent 0x0606 .seqPair s.leadIx f d) s

/-- A pre-emption of the running best-effort job is requested (R314, R315, R323). -/
def State.requestPreempt (s : State) (n : Fin 32) (overrun : Nat) : State :=
  match s.jobs[n] with
  | none => s
  | some j =>
    if s.sched.switch.isSome || s.mgmt.quiesce.isSome || j.ended || j.desc.latency then s
    else
      let s1 := s.overruns n overrun
      let until_ : Option DWord := if j.desc.cheapWait = 0 then none else some (s.beatNow + BitVec.ofNat 64 j.desc.cheapWait)
      let w : Switch :=
        { phase := .stopping, cheapUntil := until_, stopAt := none, cheap := false, saveBeat := 0, waits := s.ringWaits n, cursor := 0, bad := false }
      ({ s1 with sched := { s1.sched with switch := some w } } : State).stopFeeding n

/-- A latency-critical admission: it stops a restore (R320), or pre-empts a running best-effort job (R314). -/
def State.latencyArrives (s : State) (overrun : Nat) : State :=
  match s.running, s.sched.switch with
  | some (_, j), some w =>
    if !j.desc.latency && !j.ended && s.mgmt.quiesce.isNone && (w.phase = .restoreHeader || w.phase = .restoring) then
      (s.dropUnissued fun q => q.origin == .restore).suspend
    else s
  | some (n, j), none => if j.desc.latency then s else s.requestPreempt n overrun
  | none, _ => s

/-- Acceptance of an entry (R309). DESIGN CHOICE (log 142): of the free places the lowest. -/
def State.accept (s : State) (c : Fin 256) (base : Nat) (d : JobDesc) (overrun : Nat) : State :=
  match (List.finRange 32).find? fun n => (s.jobs[n]).isNone with
  | none => s
  | some n =>
    let j : Job :=
      { client := c, desc := d, startBeat := s.beatNow, state := .admitted, saves := 0, done := 0, firstFault := 0, faultIndex := 0
        faultLabel := 0, ends := [], fetchPos := 0, chunks := [], flight := [], roster := none, saved := none
        chanSeq := Vector.replicate 4 none, chanSteps := [], ended := false, reading := none, ask := Ask.none, belows := [] }
    let s1 := s.passEntry c base
    let s2 : State := { s1 with jobs := vset s1.jobs n (some j) }
    (if d.latency then s2.latencyArrives overrun else s2).schedule

/-- A parity error of the read of a job descriptor that its beats did not show is counted (R361, R386). -/
def State.countParity (s : State) (a : Nat) (shown parityError : Bool) : State :=
  if parityError && !shown then s.modPort (s.portOf a) fun p => { p with rdParity := satInc p.rdParity } else s

/-- JOB_ADMISSION: the job descriptor of a taken entry has been read. `overrun` is the time that a command which cannot be
pre-empted still runs, for event 0x0606. -/
def execJobAdmission (client : Fin 256) (parityError : Bool) (overrun : Nat) (s : State) : Host.Outcome State Fault Refusal :=
  match (s.clients[client]).taken with
  | none => .next s
  | some t =>
    if !s.admits || s.jobs.toList.all (·.isSome) || !t.whole || s.reading (.client client) then .next s
    else
      let e := t.entry
      let a := u64 e 0
      let d := s.near a 256
      let s := s.countParity a t.bad parityError
      match s.admissionCode client d e (t.bad || parityError || s.ext.poisoned false a 256) with
      | some code => .next (s.refuse client t code)
      | none =>
        let j := readJobDesc d e
        if s.ringsReady j then .next (s.accept client t.base j overrun)
        else
          let s1 := if t.waiting then s else s.clientReport client 0x0607 false .none
          .next (s1.modClient client fun c => { c with taken := some { t with waiting := true } })

/-- RING_WAIT_EXPIRY (R311). -/
def execRingWaitExpiry (client : Fin 256) (s : State) : Host.Outcome State Fault Refusal :=
  match (s.clients[client]).taken with
  | none => .next s
  | some t =>
    let wait := u32 (s.near (u64 t.entry 0) 256) 4
    if !s.admits || !t.waiting || wait = 0 || !s.reached (t.since + BitVec.ofNat 64 wait) then .next s
    else .next (s.refuse client t 0x0603)

/-- A new slice begins at once. -/
def State.newSlice (s : State) : State := { s with sched := { s.sched with sliceStart := s.beatNow } }

/-- SLICE_END (R315, R318). -/
def execSliceEnd (overrun : Nat) (s : State) : Host.Outcome State Fault Refusal :=
  match s.running with
  | none => .next s
  | some (n, j) =>
    if !s.ready || j.desc.latency || j.ended || s.sched.switch.isSome || s.mgmt.quiesce.isSome || s.mgmt.beat.stalled
        || !s.reached (s.sched.sliceStart + BitVec.ofNat 64 (s.sliceBeats j.desc)) then .next s
    else if s.waiting.any fun x => !x.2.desc.latency then .next (s.requestPreempt n overrun)
    else .next ((s.overruns n overrun).newSlice)

/-! ### The save area (Tables 13-3 to 13-6) -/

def headOff : Nat := 0x0A280000

/-- The core and the place in its 1,280 chunks of a byte of the tier-0 image. -/
def imageCore (x : Nat) : Fin 32 := ⟨x / 4096 % 32, by omega⟩
def imageLocal (x : Nat) : Nat := x / 131072 * 4096 + x % 4096
def imageAddr (c : Fin 32) (l : Nat) : Nat := (l / 4096 * 32 + c.val) * 4096 + l % 4096

/-- The facet whose accumulator memory holds a local byte; none for the stage buffer. -/
def localFacet (l : Nat) : Option (Fin 4) := if l < 0x400000 then none else some ⟨(l - 0x400000) / 0x40000 % 4, by omega⟩

/-- Whether a save writes the chunk that holds a local byte of a core: units in service, and at a cheap point only live slots
and live accumulator bands of 64 rows (R323). `live` is none for a full save. -/
def chunkSaved (cores : BitVec 32) (facets : BitVec 128) (live : Option (List DWord × List Byte)) (c : Fin 32) (l : Nat) : Bool :=
  match localFacet l with
  | none =>
    cores.getLsbD c.val && (match live with | none => true | some (sl, _) => (sl.getD c.val 0).getLsbD (l / 65536))
  | some f =>
    let g := (facetIx c f).val
    facets.getLsbD g && (match live with | none => true | some (_, ac) => (ac.getD g 0).getLsbD ((l - 0x400000) % 0x40000 / 32768))

/-- The bytes of tier 0 that a 4 KiB chunk of the image holds. -/
def State.imageBytes (s : State) (c : Fin 32) (l : Nat) : List Byte :=
  match localFacet l with
  | none => (s.cores[c].sb).bytes l 4096
  | some f => ((s.facets[facetIx c f]).acc).bytes ((l - 0x400000) % 0x40000) 4096

def State.coresUp (s : State) : BitVec 32 := BitVec.ofNat 32 (jobMap fun c => s.cores[c].inService)
def State.pairsUp (s : State) : List (Fin 8) := allPairs.filter fun i => !(s.pairs[i]).lost

/-- Live slots and bands of a cheap-point entry (Table 13-6). -/
def State.cheapLive (s : State) (j : JobDesc) (index : Nat) : Option (List DWord × List Byte) :=
  let ent := (List.range j.cheapCount).find? fun i => s.ext.near.field (j.cheapBase + 512 * i) 4 == index
  if j.cheapBase = 0 then none
  else
    ent.map fun i =>
      let b := s.near (j.cheapBase + 512 * i) 512
      ((List.range 32).map fun c => w64 b (0x10 + 8 * c), (b.drop 0x110).take 128)

/-- What a save keeps of tier 0: everything, or at a cheap point what is live. -/
def Saved.live (sv : Saved) : Option (List DWord × List Byte) := if sv.cheap then some (sv.slotLive, sv.accLive) else none

/-- Bytes that a save writes, by the units in service as it began (Tables 13-4, 13-5). -/
def Saved.bytes (sv : Saved) : Nat :=
  let chunk (c : Fin 32) (l : Nat) : Nat := if chunkSaved sv.cores sv.facets sv.live c l then 4096 else 0
  let image := ((allCores.map fun c => ((List.range 1280).map fun i => chunk c (4096 * i)).sum)).sum
  4096 + 32768 * popcount sv.cores.toNat 32 + 196608 * popcount sv.pairs.toNat 8 + image

/-- The 4 KiB chunks before the header (Table 13-3): 256 of the control region, 384 of the partitions and 40,960 of the image, each at its number times
4 KiB from the base once the image stands first. -/
def chunkCount : Nat := 41600
def chunkAt (k : Nat) : Nat := 4096 * ((k + 40960) % 41600)

/-- A save writes the chunk, and a restore reads it. -/
def Saved.keeps (sv : Saved) (k : Nat) : Bool :=
  if k < 256 then sv.cores.getLsbD (k / 8)
  else if k < 640 then sv.pairs.getLsbD ((k - 256) / 48)
  else chunkSaved sv.cores sv.facets sv.live (imageCore (chunkAt k)) (imageLocal (chunkAt k))

/-- The first such chunk from `k` on; `k` plus the fuel where there is none. -/
def Saved.nextChunk (sv : Saved) : Nat → Nat → Nat
  | 0, k => k
  | fuel + 1, k => if sv.keeps k then k else sv.nextChunk fuel (k + 1)

/-- The bytes of a chunk. What the control region and the partitions hold is free (R321: the encoding belongs to the firmware release; log 2). -/
def State.chunkBytes (s : State) (k : Nat) : List Byte :=
  if k < 640 then (List.range 4096).map fun i => Config.saveByte s.fresh (chunkAt k + i)
  else s.imageBytes (imageCore (chunkAt k)) (imageLocal (chunkAt k))

def State.modSwitch (s : State) (f : Switch → Switch) : State := { s with sched := { s.sched with switch := s.sched.switch.map f } }

/-- The chunk that a save or a restore has come to, if it is not at its end. -/
def Saved.chunk (sv : Saved) (w : Switch) : Option Nat :=
  let k := sv.nextChunk (chunkCount - w.cursor) w.cursor
  if k < chunkCount then some k else none

/-- The save writes its next chunk. DESIGN CHOICE (log 143): the chunks are written one after another, each once the one before it has its response. -/
def State.saveStep (s : State) (n : Fin 32) : State :=
  match s.jobs[n], s.sched.switch with
  | some j, some w =>
    match j.saved with
    | some sv =>
      if w.phase ≠ .saving || (s.outstanding fun q => q.origin == .save) then s
      else
        match sv.chunk w with
        | none => s
        | some k =>
          let s1 := ({ s with fresh := s.fresh + 1 } : State).modSwitch fun w => { w with cursor := k + 1 }
          s1.extWrite .save j.desc.saveFar false (j.desc.saveBase + chunkAt k) (s.chunkBytes k) []
    | none => s
  | _, _ => s

/-- The save starts (R317 item 3, R321, R323): control, partitions and image go to the save area. -/
def State.startSave (s : State) (n : Fin 32) (w : Switch) (live : Option (List DWord × List Byte)) : State :=
  let saved : Saved :=
    { ctl := Vector.ofFn fun c => { slots := s.cores[c].slots, hampers := s.cores[c].hampers, tasks := s.cores[c].tasks }
      transit := s.transit, cores := s.coresUp, facets := s.facetsUp, cheap := live.isSome
      pairs := BitVec.ofNat 8 ((s.pairsUp.map fun i => 2 ^ i.val).sum)
      slotLive := (live.map (·.1)).getD [], accLive := (live.map (·.2)).getD [] }
  let w1 : Switch := { w with phase := .saving, cheap := live.isSome, saveBeat := s.beatNow, cheapUntil := none, cursor := 0 }
  let s1 : State := { s with sched := { s.sched with switch := some w1 } }
  (s1.modJob n fun j => { j with saved := some saved }).saveStep n

/-- Requests of the job, but not of its buckets, await responses. -/
def State.jobTraffic (s : State) (n : Fin 32) : Bool := s.outstanding fun q => q.origin.isJob n

/-- The running job that is being pre-empted, with its switch in the given phase; not while a fault that ends it waits for the queue (R404). -/
def State.switching (s : State) (p : SwitchPhase) : Option (Fin 32 × Job × Switch) :=
  match s.running, s.sched.switch with
  | some (n, j), some w => if w.phase = p && s.ready && s.mgmt.quiesce.isNone && !s.jobHeld n then some (n, j, w) else none
  | _, _ => none

/-- PREEMPT_QUIESCED: no command runs under the protection of nopre, and every request has its response. -/
def execPreemptQuiesced (s : State) : Host.Outcome State Fault Refusal :=
  match s.switching .stopping with
  | none => .next s
  | some (n, _, w) =>
    if w.cheapUntil.isSome || s.boundaryOpen n || s.jobTraffic n then .next s
    else .next (s.startSave n w none)

/-- CHEAP_POINT_REACHED (R323): the cheap command and every earlier command have completed. -/
def execCheapPointReached (s : State) : Host.Outcome State Fault Refusal :=
  match s.switching .stopping with
  | none => .next s
  | some (n, j, w) =>
    match w.cheapUntil, w.stopAt with
    | some _, some i =>
      if (j.flight.any fun f => f.op ≠ .reduce || f.ref.plan = i) || s.jobTraffic n then .next s
      else .next (s.startSave n w (s.cheapLive j.desc i))
    | _, _ => .next s

/-- CHEAP_WAIT_EXPIRY (R323): a full save follows. -/
def execCheapWaitExpiry (s : State) : Host.Outcome State Fault Refusal :=
  match s.switching .stopping with
  | none => .next s
  | some (n, _, w) =>
    match w.cheapUntil with
    | some b =>
      if s.reached b then .next (({ s with sched := { s.sched with switch := some { w with cheapUntil := none, stopAt := none } } } : State).stopFeeding n)
      else .next s
    | none => .next s

/-- The command carries the nopre flag and still has its protection. -/
def InFlight.flagged (f : InFlight) : Bool := f.nopre && bit (u8 f.raw 1) 2 && f.op != .commit

/-- NOPRE_OVERRUN (R318): the nopre flag loses its protection; a COMMIT cannot be pre-empted by nature. -/
def execNopreOverrun (s : State) : Host.Outcome State Fault Refusal :=
  match s.running with
  | none => .next s
  | some (n, j) =>
    if !((s.switching .stopping).isSome || s.ready && s.aborting) then .next s
    else
      let s1 := (j.flight.filter (·.flagged)).foldl (fun s f => s.cmdEvent 0x0608 .seqPair s.leadIx f 0) s
      .next ((s1.modJob n fun j => { j with flight := j.flight.map fun f => if f.flagged then { f with nopre := false } else f }).stopFeeding n)

/-- The save header from offset 8 on (Table 13-4). -/
def State.saveHeader (s : State) (j : Job) (w : Switch) (sv : Saved) : List Byte :=
  leBytes 4 Config.version.toNat ++ leBytes 4 0 ++ leBytes 8 s.mgmt.cut.serial.toNat ++ leBytes 4 (field s.mgmt.cut.mcFirmware 0 4)
    ++ leBytes 4 (field s.mgmt.cut.seqFirmware 0 4) ++ s.mgmt.rwl.structDigest ++ leBytes 8 w.saveBeat.toNat
    ++ leBytes 8 sv.bytes ++ leBytes 4 j.fetchPos ++ leBytes 4 sv.cores.toNat ++ leBytes 16 sv.facets.toNat ++ leBytes 3976 0

/-- The writes of a save that are open fail: each of their words holds its old value or its new one (R363). -/
def State.failSave (s : State) : State :=
  let open_ := (s.tilePorts.toList.map fun t => t.reqs.filter fun q => q.origin == .save && q.tag.isSome).flatten
  let s1 := open_.foldl State.tearWrite (s.dropUnissued fun q => q.origin == .save)
  { s1 with tilePorts := s1.tilePorts.map fun t =>
      { t with werrs := satAddW t.werrs (t.reqs.filter fun q => q.origin == .save).length, reqs := t.reqs.filter fun q => !(q.origin == .save) } }

/-- SAVE_COMPLETE (R321): once every other write of the save has its response, the header is written, and its valid_word last; a write error ends the job with
0x0609, and the words that the open writes cover are old or new (R363). -/
def execSaveComplete (writeError : Bool) (s : State) : Host.Outcome State Fault Refusal :=
  match s.switching .saving with
  | none => .next s
  | some (n, j, w) =>
    if writeError then .next (s.failSave.jobFault 0x0609 .block 0 0xFFFFFFFF 0)
    else
      match j.saved with
      | none => .next s
      | some sv =>
        if (sv.chunk w).isSome || (s.outstanding fun q => q.origin == .save) then .next s else
        let a := j.desc.saveBase + headOff
        let s1 := s.modJob n fun j => { j with saves := j.saves + 1 }
        let s2 := s1.extWrite .save j.desc.saveFar false (a + 8) (s.saveHeader j w sv) []
        let word := leBytes 4 (1 + 2 * boolNat sv.cheap) ++ leBytes 4 (j.saves + 1).toNat
        let s3 := s2.extWrite .save j.desc.saveFar false a word []
        .next { s3 with sched := { s3.sched with switch := some { w with phase := .clearing } } }

/-- CLEAR_COMPLETE (R317 item 4, R319): tier 0 is clear; the next job starts unless a ring step defers it, with event 0x060B. -/
def execClearComplete (s : State) : Host.Outcome State Fault Refusal :=
  match s.switching .clearing with
  | none => .next s
  | some (_, _, w) =>
    if s.outstanding fun q => q.origin == .save then .next s else
    let s1 := s.clearTier0
    let s2 : State := { s1 with sched := { s1.sched with switch := some { w with phase := .deferred } } }
    if w.waits.any s.stillWaits then .next (s2.event 0x060B .block 0 0) else .next s2.suspend

/-! ### Restore (R325, R326) -/

/-- The header's checks of R325. -/
def State.headerMatches (s : State) (b : List Byte) : Bool :=
  bit (u8 b 0) 0 && u32 b 8 == Config.version.toNat && u64 b 0x10 == s.mgmt.cut.serial.toNat
    && u32 b 0x18 == field s.mgmt.cut.mcFirmware 0 4 && u32 b 0x1C == field s.mgmt.cut.seqFirmware 0 4
    && (b.drop 0x20).take 48 == s.mgmt.rwl.structDigest

/-- The header of the save area is read. -/
def State.readHeader (s : State) : State :=
  match s.switching .restoreHeader with
  | none => s
  | some (_, j, w) =>
    if w.cursor = 0 && !s.reading .restore then
      (s.modSwitch fun w => { w with cursor := 1 }).extFetch 0 .restore j.desc.saveFar (j.desc.saveBase + headOff) 4096 []
    else s

/-- The restore reads its next chunk (R325: control, partitions, then the image in the order of the save; log 143). -/
def State.restoreStep (s : State) (n : Fin 32) : State :=
  match s.jobs[n], s.sched.switch with
  | some j, some w =>
    match j.saved with
    | some sv =>
      if w.phase ≠ .restoring || s.reading .restore then s
      else
        match sv.chunk w with
        | none => s
        | some k =>
          (s.modSwitch fun w => { w with cursor := k + 1 }).extFetch 0 .restore j.desc.saveFar (j.desc.saveBase + chunkAt k) 4096 []
    | none => s
  | _, _ => s

/-- RESTORE_HEADER_READ: the header has been read, and is checked. While it has not been asked for, it is. -/
def execRestoreHeaderRead (clean : Bool) (s : State) : Host.Outcome State Fault Refusal :=
  match s.switching .restoreHeader with
  | none => .next s
  | some (n, j, w) =>
    if w.cursor = 0 || s.reading .restore then .next s.readHeader
    else
      let a := j.desc.saveBase + headOff
      let s := s.countParity a w.bad (!clean)
      let b := (s.ext.mem j.desc.saveFar).bytes a 4096
      if !clean || w.bad || s.ext.poisoned j.desc.saveFar a 4096 || !s.headerMatches b then .next (s.jobFault 0x060A .block 0 0xFFFFFFFF 0)
      else .next ((s.modSwitch fun w => { w with phase := .restoring, cursor := 0 }).restoreStep n)

/-- A slot after a restore: at a cheap point only live slots keep their copies, the others are discarded (R323). -/
def restoredSlot (sv : Saved) (c : Fin 32) (i : Nat) (sl : Slot) (retired : Bool) : Slot :=
  if sv.cheap && !(sv.slotLive.getD c.val 0).getLsbD i then { Slot.empty with retired := retired } else { sl with retired := retired }

/-- The residues that the writer of an accumulator memory forms (R332). -/
def accResidues (m : Mem) : Mem :=
  (sortNat (m.map fun x => x.1 / 8)).foldl (fun r w => r.write w (BitVec.ofNat 8 (residue (BitVec.ofNat 64 (m.field (8 * w) 8))))) []

/-- A chunk of the image comes back into tier 0, where its unit is in service. -/
def State.loadChunk (s : State) (k : Nat) (b : List Byte) : State :=
  if k < 640 then s
  else
    let c := imageCore (chunkAt k)
    let l := imageLocal (chunkAt k)
    match localFacet l with
    | none => if s.cores[c].inService then s.modCore c fun x => { x with sb := (x.sb.clear l 4096).writeBytes l b } else s
    | some f =>
      let o := (l - 0x400000) % 0x40000
      if s.facetUp (facetIx c f) then s.modFacet (facetIx c f) fun g => { g with acc := (g.acc.clear o 4096).writeBytes o b } else s

/-- A chunk that the restore has asked for has come; the next one is read. A bad beat ends the job (R325). -/
def State.chunkRead (s : State) : State :=
  match s.switching .restoring with
  | none => s
  | some (n, j, w) =>
    if s.reading .restore || w.cursor = 0 then s
    else if w.bad then s.jobFault 0x060A .block 0 0xFFFFFFFF 0
    else
      let b := (s.ext.mem j.desc.saveFar).bytes (j.desc.saveBase + chunkAt (w.cursor - 1)) 4096
      (s.loadChunk (w.cursor - 1) b).restoreStep n

/-- The accumulator memories are back: the writer forms the residues (R332). -/
def State.residuesBack (s : State) : State := { s with facets := s.facets.map fun g => { g with residues := accResidues g.acc } }

/-- Free slots of a core that were discarded go to their free queues (R253). -/
def State.freeDiscarded (s : State) (sv : Saved) : State :=
  if !sv.cheap then s
  else
    allCores.foldl (fun s c =>
      if !s.cores[c].inService then s
      else
        (List.finRange 64).foldl (fun s i =>
          if (sv.slotLive.getD c.val 0).getLsbD i.val then s
          else
            let h := s.handleOf c i
            let s1 := s.modCore c fun k =>
              { k with
                hampers := k.hampers.map fun q => q.filter (· ≠ h)
                tasks := k.tasks.map fun t => { t with held := t.held.filter (· ≠ (c, i)), carrySlots := t.carrySlots.filter (· ≠ i) } }
            s1.freeSlot c i) s) s

/-- Control state from the save, and what R326 says of units lost since: their items go to the return list. -/
def State.loadControl (s : State) (sv : Saved) : State :=
  let put (c : Fin 32) (k : Core) : Core :=
    let ctl := sv.ctl[c]
    if k.inService then
      { k with
        slots := Vector.ofFn fun i => restoredSlot sv c i.val ctl.slots[i] (k.slots[i]).retired
        hampers := ctl.hampers
        tasks := ctl.tasks }
    else { k with tasks := ctl.tasks }
  let s1 : State := { s with
    cores := Vector.ofFn fun c => put c s.cores[c]
    transit := sv.transit.filter fun t => s.cores[t.core].inService }
  let s2 := allCores.foldl (fun s c =>
    s.returnTasks c fun t => !s.cores[c].inService || t.gang.any fun f => !s.facetUp (facetIx c f)) s1
  s2.freeDiscarded sv

/-- TEARDOWN_BUCKETS_DONE (R328): an ended job whose accepted buckets have all passed releases its place. -/
def execTeardownBucketsDone (s : State) : Host.Outcome State Fault Refusal :=
  match (List.finRange 32).find? fun n => ((s.jobs[n]).map fun j => j.state == .ending && j.ended).getD false && !s.bucketsOf n with
  | none => .next s
  | some n =>
    if !s.functional then .next s
    else if s.sched.run = some n then .next (s.finishTeardown n)
    else .next (s.releaseJob n).schedule

end Sys2Proof.Machine
end

