-- ==== Sys2Proof/Machine/Operands.lean ====
section
/-! DEFINITION. Operand forms: tensor and extension descriptors (R270, R271, Tables 11-7 and 11-8), live plane sets (R154), scales
(R60, R68, R72), tile and row addressing (R239 to R242, R105 to R108), and reads and writes of tensors in external memory. -/

namespace Sys2Proof.Machine

/-! ### Checks -/

/-- The code of the first check that does not hold. -/
def firstFail : List (Bool × Half) → Option Half
  | [] => none
  | (ok, c) :: r => if ok then firstFail r else some c

def need (ok : Bool) (c : Half) : Except Half Unit := if ok then .ok () else .error c

/-- Runs an issue check only where it applies. -/
def needIf (applies ok : Bool) (c : Half) : Except Half Unit := need (!applies || ok) c

def ceilDiv (a b : Nat) : Nat := (a + b - 1) / b

/-! ### Tensor layouts (Table 10-3, R105, R242) -/

/-- Bytes of a 64 × 64 tile. -/
def Form.tileBytes (f : Form) : Nat := 512 * f.width

def Layout.isSparse : Layout → Bool
  | .sparse48 | .sparse28 => true
  | _ => false

/-- Values per column of a present block. -/
def Layout.perCol : Layout → Nat
  | .sparse28 => 2
  | _ => 4

/-- Values per present block. -/
def Layout.perBlock (l : Layout) : Nat := 8 * l.perCol

/-- Bytes of the value plane of one sparse tile of 128 blocks (Table 05-1, R133). -/
def planeBytes (l : Layout) (f : Form) : Nat := l.perBlock * 128 * f.width / 8

def Desc.sparse (d : Desc) : Bool := d.layout.isSparse

/-- Bytes of one tile, or of one sparse tile's value plane. -/
def Desc.tileSize (d : Desc) : Nat := if d.sparse then planeBytes d.layout d.form else d.form.tileBytes

/-- Tiles across and down. -/
def Desc.across (d : Desc) : Nat := if d.sparse then ceilDiv d.cols 128 else ceilDiv d.cols 64
def Desc.down (d : Desc) : Nat := ceilDiv d.rows 64
def Desc.tileCount (d : Desc) : Nat := d.across * d.down

/-- Row stride of a row-layout table (R242). -/
def Desc.rowBytes (d : Desc) : Nat := d.cols * d.form.width / 8

/-- R242: the rules of a row-layout table. -/
def Desc.rowsOk (d : Desc) : Bool :=
  d.layout == .rows && d.base % 512 == 0 && d.itemStride % 512 == 0 && d.rowBytes ≤ d.itemStride && d.cols % 64 == 0
    && (d.form.isCode && d.form.width == 8 || d.form == .fp32 || d.form == .wide)

/-! ### Elements of a tile -/

/-- Element `e` of a plane of `n` elements whose bytes `t` gives (Table 10-3, R240). -/
def elemAt (f : Form) (n : Nat) (t : Nat → Byte) (e : Nat) : Nat :=
  match f.width with
  | 8 => (t e).toNat
  | 32 => leNat ((List.range 4).map fun i => t (4 * e + i))
  | 64 => leNat ((List.range 8).map fun i => t (8 * e + i))
  | w => ((List.range w).map fun j => if (t (n / 8 * j + e / 8)).toNat.testBit (e % 8) then 2 ^ j else 0).sum

/-- The bytes of a plane with element `e` replaced: each as its offset and its new value. -/
def elemPut (f : Form) (n : Nat) (t : Nat → Byte) (e v : Nat) : List (Nat × Byte) :=
  match f.width with
  | 8 => [(e, BitVec.ofNat 8 v)]
  | 32 => ((leBytes 4 v).zipIdx).map fun (b, i) => (4 * e + i, b)
  | 64 => ((leBytes 8 v).zipIdx).map fun (b, i) => (8 * e + i, b)
  | w => (List.range w).map fun j =>
      let o := n / 8 * j + e / 8
      let m : Byte := 1 <<< (e % 8)
      (o, if v.testBit j then t o ||| m else t o &&& ~~~m)

/-- Offsets of the 8-byte words that element `e` touches, in words. -/
def elemWords (f : Form) (n e : Nat) : List Nat :=
  match f.width with
  | 8 => [e / 8]
  | 32 => [e / 2]
  | 64 => [e]
  | w => (List.range w).map fun j => (n / 8 * j + e / 8) / 8

/-! ### Descriptors -/

def formOf : Nat → Option Form
  | 0 => some .e4m3
  | 1 => some .e5m2
  | 2 => some .e2m1
  | 3 => some .int8
  | 4 => some .int4
  | 5 => some .fp32
  | 6 => some .int32
  | 7 => some .wide
  | 8 => some .plane
  | _ => none

def layoutOf : Nat → Layout
  | 0 => .tiles
  | 1 => .rows
  | 2 => .sparse48
  | _ => .sparse28

def fallbackOf : Nat → Option Fallback
  | 0 => some .none
  | 1 => some .alt
  | 2 => some .skip
  | _ => none

/-- A record of `n` bytes in tier 1 that a command of a job reads (R233, R234). -/
def State.record (s : State) (j : JobDesc) (a n : Nat) (poison : Half) : Except Half (List Byte) :=
  if !j.mayRead false a n then .error 0x0201 else if s.ext.poisoned false a n then .error poison else .ok (s.near a n)

/-- The 64 bytes of a descriptor. -/
def State.descBytes (s : State) (j : JobDesc) (i : Nat) : Except Half (List Byte) :=
  if i ≥ j.descCount then .error 0x0103 else s.record j (j.descTable + 64 * i) 64 0x0107

/-- An extension descriptor (Table 11-8). -/
def State.readExt (s : State) (j : JobDesc) (i : Nat) : Except Half ExtDesc := do
  let b ← s.descBytes j i
  need (u8 b 0 == 2) 0x0103
  need (u8 b 3 == 0 && zeroRange b 0x30 16) 0x0102
  return { alpha8 := u8 b 1, reqSh := u8 b 2, reqM := u32 b 4, rowsumBase := u64 b 8, smoothBase := u64 b 0x10,
           masterBase := u64 b 0x18, stateBase := u64 b 0x20, chanstatBase := u64 b 0x28 }

/-- The checks of a mask record that any command makes (R154, R155). -/
def maskRecOk (b : List Byte) : Except Half Unit := do
  need (u32 b 4 < 2 && bits (u32 b 8) 31 2 == 0 && zeroRange b 0xA8 344 && u32 b 8 % 4 != 3) 0x0540
  need ((List.range 14).all fun i => u64 b (0x20 + 8 * i) % 4096 == 0) 0x0210

/-- Offset of the set that is live (`shadow` false) or the shadow. -/
def maskSet (b : List Byte) (shadow : Bool) : Nat := if (u32 b 4 % 2 == 1) != shadow then 0x40 else 0x20

/-- R154: the bases of the live set, or for a gradient descriptor its index base alone. -/
def liveSet (d : Desc) (b : List Byte) : Desc :=
  let o := maskSet b false
  let ver := some (w32 b 0)
  if d.form.isCode then
    { d with base := u64 b o, auxBase := u64 b (o + 8), master := u64 b (o + 16), state := u64 b (o + 24),
             far := false, auxFar := false, version := ver }
  else { d with auxBase := u64 b (o + 8), auxFar := false, version := ver }

/-- A tensor descriptor with its extension and its live set (R154, R270, R271). DESIGN CHOICE (log 146): a mask record that comes back poisoned ends the
command that reads it with 0x0107, as a descriptor does. -/
def State.readDesc (s : State) (j : JobDesc) (i : Nat) : Except Half Desc := do
  let b ← s.descBytes j i
  need (u8 b 0 == 1) 0x0103
  let lay := u8 b 2
  let fl := u8 b 3
  need (bits lay 7 5 == 0 && !bit fl 7) 0x0102
  match formOf (u8 b 1), fallbackOf (bits lay 3 2) with
  | some f, some fb =>
    let layout := layoutOf (lay % 4)
    let ei := u16 b 0x3E
    let d0 : Desc :=
      { index := i, form := f, layout := layout, fallback := fb, chanStats := bit lay 4, far := bit fl 0, auxFar := bit fl 1
        zpMode := bits fl 3 2, rotate := bit fl 4, smooth := bit fl 5, isLazy := bit fl 6, rows := u32 b 4, cols := u32 b 8
        itemStride := u32 b 0xC, base := u64 b 0x10, auxBase := u64 b 0x18, scaleRec := u64 b 0x20, maskRec := u64 b 0x28
        scale := w32 b 0x30, zeroPoint := w32 b 0x34, rtDeadline := u32 b 0x38, altIndex := u16 b 0x3C, ext := none
        master := 0, state := 0, version := none }
    need (d0.zpMode < 3 && d0.rows != 0 && d0.cols != 0 && (d0.sparse || d0.auxBase == 0) && d0.scaleRec % 128 == 0
      && d0.maskRec % 512 == 0) 0x0103
    needIf d0.sparse (f != .int32 && f != .plane) 0x0103
    let ext ← if ei = 0xFFFF then pure none else (s.readExt j ei).map some
    let d1 : Desc :=
      { d0 with
        ext := ext
        master := (ext.map (·.masterBase)).getD 0
        state := (ext.map (·.stateBase)).getD 0 }
    if d0.sparse && d0.maskRec != 0 then
      let m ← s.record j d0.maskRec 512 0x0107
      maskRecOk m
      return liveSet d1 m
    else return d1
  | _, _ => .error 0x0103

/-- R256: the alternate of a descriptor has the same shape and form. It serves in the place of the descriptor that names it. -/
def State.readAlt (s : State) (j : JobDesc) (d : Desc) : Except Half Desc := do
  let a ← s.readDesc j d.altIndex
  need (a.rows == d.rows && a.cols == d.cols && a.form == d.form && a.layout == d.layout) 0x0208
  return { a with index := d.index }

/-- A descriptor as a command reads it: in a body whose list runs on the previous version, through its alternate (R305). -/
def State.operand (s : State) (j : Job) (r : CmdRef) (i : Nat) : Except Half Desc := do
  let d ← s.readDesc j.desc i
  if d.fallback = .alt then
    let a ← s.readAlt j.desc d
    return if r.body.isSome && ((j.roster.map (·.alt)).getD false) then a else d
  else return d

/-- A descriptor that may be left out. -/
def State.operandOpt (s : State) (j : Job) (r : CmdRef) (i : Nat) : Except Half (Option Desc) :=
  if i = 0xFFFF then .ok none else (s.operand j r i).map some

/-! ### Scales (R60, R68, R72) -/

/-- The scale record of a descriptor, checked. -/
def State.scaleRecord (s : State) (j : JobDesc) (d : Desc) : Except Half (List Byte) := do
  let b ← s.record j d.scaleRec 128 0x0107
  need (scaleRecOk b && (formOfFormat (u8 b 0x4F)).width == d.form.width) 0x0113
  return b

/-- The scale with which a narrow tensor is read (R72). -/
def State.readScale (s : State) (j : JobDesc) (d : Desc) : Except Half Scale := do
  if d.scaleRec = 0 then
    need (fpPosNormal d.scale) 0x0113
    return { form := d.form, scale := d.scale, rscale := fpDiv fpOne d.scale, record := 0 }
  else
    let b ← s.scaleRecord j d
    need (fpPosNormal (w32 b 0x40)) 0x0113
    return { form := formOfFormat (u8 b 0x4F), scale := w32 b 0x40, rscale := w32 b 0x44, record := d.scaleRec }

/-- A scale of 1 for a form that has none. -/
def Scale.unit (f : Form) : Scale := { form := f, scale := fpOne, rscale := fpOne, record := 0 }

/-- The reading scale of any operand: 1 for a form that is no code. -/
def State.scaleOf (s : State) (j : JobDesc) (d : Desc) : Except Half Scale :=
  if d.form.isCode then s.readScale j d else .ok (Scale.unit d.form)

/-- The issue of a producing command (R69): the scale in force, the record to write, and whether the scale was clamped. -/
def State.produceScale (s : State) (j : JobDesc) (d : Desc) (t : Word) : Except Half (Scale × Option (List Byte) × Bool) := do
  if d.scaleRec = 0 then
    let sc ← s.readScale j d
    return (sc, none, false)
  else
    let b ← s.scaleRecord j d
    let (b1, clamped) := scaleIssue b t
    need (fpPosNormal (w32 b1 0x40)) 0x0113
    return ({ form := formOfFormat (u8 b1 0x4F), scale := w32 b1 0x40, rscale := w32 b1 0x44, record := d.scaleRec },
      if b1 = b then none else some b1, clamped)

/-- A code read with its scale and zero point, as FP32 (R60, R145; DEDUCED, log 129: R145 names the scale alone). -/
def Scale.value (sc : Scale) (z : Int) (code : Nat) : Word :=
  match sc.form with
  | .fp32 => BitVec.ofNat 32 code
  | .wide => accRead (accOf (BitVec.ofNat 64 code))
  | .int32 => fpOfInt (BitVec.ofNat 32 code).toInt
  | f =>
    match codeValue f code with
    | .finite v => if f.isInt then fpMul (fpOfInt (v - z)) sc.scale else fpMul (codeFp f code) sc.scale
    | _ => fpMul (codeFp f code) sc.scale

def Desc.zp (d : Desc) : Int := d.zeroPoint.toInt

/-- A zero point lies in its code's range. -/
def zpInRange (f : Form) (z : Int) : Bool := if f = .int8 then -128 ≤ z && z ≤ 127 else -8 ≤ z && z ≤ 7

/-- R62, R72: the zero point of an operand by the code in force. Only an integer activation whose zp_mode is not NONE has one, and it lies in its code's
range (R270). INT32 tensors and bit planes are no operands of R62. -/
def zpOk (activation : Bool) (f : Form) (d : Desc) : Except Half Unit := do
  needIf (f != .int32 && f != .plane) (d.zp == 0 || (activation && f.isInt && d.zpMode != 0)) 0x0112
  needIf (f.isInt && d.zp != 0) (zpInRange f d.zp) 0x0103

/-- R267, R271: what a destination's flags need of its extension, with alpha8 in its range where smoothing is enabled. -/
def extOk (d : Desc) : Except Half Unit :=
  match d.ext with
  | none => need (!d.smooth && !d.chanStats) 0x0103
  | some e => need ((!d.smooth || (e.alpha8 ≤ 8 && e.smoothBase != 0)) && (!d.chanStats || e.chanstatBase != 0)) 0x0103

/-- R104: a sparse gradient plane is named only as such (R408). -/
def notGradPlane (d : Desc) : Except Half Unit := need (!d.sparse || d.form.isCode) 0x0103

/-- R71: the reciprocal of the scale that E4M3 would use on the history of a tensor's record on which the scale in force was computed: that of the step's
first issue (R69), where this job made it. DESIGN CHOICE (log 145): where another job did, the history as it stands. -/
def State.belowOf (s : State) (j : Job) (record : Nat) (t : Word) : Word :=
  if record = 0 then fpOne
  else
    match j.belows.find? fun x => x.1 == record && x.2.1 == t with
    | some x => x.2.2
    | none => belowRscale (s.near record 128)

/-- A producing command of step t has issued on a record. -/
def State.noteBelow (s : State) (n : Fin 32) (record : Nat) (t below : Word) : State :=
  if record = 0 then s
  else s.modJob n fun j => { j with belows := (j.belows.filter fun x => x.1 ≠ record) ++ [(record, t, below)] }

/-! ### Sparse planes (R104 to R108) -/

/-- Rank of row `r` among the pattern positions of column `c`. -/
def patRank (p : Nat) (r c : Nat) : Nat := ((List.range r).filter fun i => p.testBit (8 * i + c)).length

/-- Value number of a pattern position (R107). -/
def valueNo (perCol p r c : Nat) : Nat := perCol * c + patRank p r c

/-- R109: a present block has exactly `k` positions in each row and each column. -/
def patternOk (k p : Nat) : Bool :=
  (List.range 8).all fun i =>
    ((List.range 8).filter fun c => p.testBit (8 * i + c)).length == k
      && ((List.range 8).filter fun r => p.testBit (8 * r + i)).length == k

/-- The pattern word of a block of a tile, from the bytes of its index plane (R106). -/
def patternAt (t : Nat → Byte) (br bc : Nat) : Nat := leNat ((List.range 8).map fun i => t (8 * (16 * br + bc) + i))

/-- The tile, block and place of element (r, c) of a sparse tensor. -/
structure SparsePos where
  tile : Nat
  br : Nat
  bc : Nat
  r : Nat
  c : Nat
deriving DecidableEq, Repr

def Desc.sparsePos (d : Desc) (r c : Nat) : SparsePos where
  tile := r / 64 * d.across + c / 128
  br := r % 64 / 8
  bc := c % 128 / 8
  r := r % 8
  c := c % 8

/-! ### Tensors in external memory -/

/-- Address of tile `k` of a tensor moved by `add` bytes. -/
def Desc.tileAddr (d : Desc) (add k : Nat) : Nat := d.base + add + k * d.tileSize
def Desc.indexAddr (d : Desc) (add k : Nat) : Nat := d.auxBase + add + 1024 * k

/-- A byte of external memory. -/
def State.extByte (s : State) (far : Bool) (a i : Nat) : Byte := (s.ext.mem far).read (a + i)

/-- Element (r, c) of a dense tensor or a table in external memory. -/
def State.extElem (s : State) (d : Desc) (add r c : Nat) : Nat :=
  if d.layout = .rows then elemAt d.form d.cols (s.extByte d.far (d.base + add + r * d.itemStride)) c
  else elemAt d.form 4096 (s.extByte d.far (d.tileAddr add (r / 64 * d.across + c / 64))) (64 * (r % 64) + c % 64)

/-- A pattern word of a sparse tensor in external memory. -/
def State.extPattern (s : State) (d : Desc) (tile br bc : Nat) : Nat := patternAt (s.extByte d.auxFar (d.indexAddr 0 tile)) br bc

/-- Address and length in bytes of the whole of a dense tensor. -/
def Desc.span (d : Desc) : Nat := if d.layout = .rows then (d.rows - 1) * d.itemStride + d.rowBytes else d.tileCount * d.tileSize

/-- Joins rising word numbers into runs: first word and count. -/
def wordRuns : List Nat → List (Nat × Nat)
  | [] => []
  | w :: r =>
    match wordRuns r with
    | (a, n) :: rest => if a = w + 1 then (w, n + 1) :: rest else (w, 1) :: (a, n) :: rest
    | [] => [(w, 1)]

/-- The writes that put elements into the plane of `n` elements at `a`: whole 8-byte words, the rest of a word as it reads
(R278, R362). -/
def State.elemWrites (s : State) (far : Bool) (f : Form) (n a : Nat) (vals : List (Nat × Nat)) : List (Nat × List Byte) :=
  let old := (s.ext.mem far).part a (n * f.width / 8 + 8)
  let cells (m : Mem) (v : Nat × Nat) : List Host.Cell := (elemPut f n (fun i => m.read (a + i)) v.1 v.2).map fun x => (a + x.1, x.2)
  let new := vals.foldl (fun m v => Mem.writeCells m (cells m v)) old
  let words := sortNat ((vals.map fun v => elemWords f n v.1).flatten)
  (wordRuns words).map fun (w, k) => (a + 8 * w, new.bytes (a + 8 * w) (8 * k))

/-- The elements of each tile of a dense tensor among a list of elements (row, column, value), in tile order. -/
def Desc.byTile (d : Desc) (vals : List (Nat × Nat × Nat)) : List (Nat × List (Nat × Nat)) :=
  let tile (v : Nat × Nat × Nat) : Nat := if d.layout = .rows then v.1 else v.1 / 64 * d.across + v.2.1 / 64
  let elem (v : Nat × Nat × Nat) : Nat := if d.layout = .rows then v.2.1 else 64 * (v.1 % 64) + v.2.1 % 64
  (sortNat (vals.map tile)).map fun k => (k, (vals.filter fun v => tile v = k).map fun v => (elem v, v.2.2))

/-! ### Tiles as sources of copies (R236) -/

/-- The source of a tile copy. -/
structure Src where
  far : Bool
  addr : Nat
  size : Nat
  form : Form
  transposed : Bool
  version : Option Word
deriving DecidableEq, Repr

def TileCopy.src (t : TileCopy) : Src := { far := t.far, addr := t.addr, size := t.size, form := t.form, transposed := t.transposed, version := t.version }

def Desc.tileSrc (d : Desc) (add k : Nat) (transposed : Bool) : Src :=
  { far := d.far, addr := d.tileAddr add k, size := d.tileSize, form := d.form, transposed := transposed, version := d.version }

def Desc.indexSrc (d : Desc) (add k : Nat) : Src :=
  { far := d.auxFar, addr := d.indexAddr add k, size := 1024, form := .plane, transposed := false, version := d.version }

/-- The slot and the copy of a source among the slots of a core: its tag is valid (R236). -/
def Core.findCopy (k : Core) (x : Src) : Option (Fin 64 × TileCopy) :=
  (List.finRange 64).findSome? fun i => ((k.slots[i]).tiles.find? fun t => t.valid && t.src == x).map fun t => (i, t)

/-- A copy that has all its data. -/
def Core.resident (k : Core) (x : Src) : Bool := match k.findCopy x with | some (_, t) => t.missing.isEmpty | none => false

/-- Whether row `r` of a copy is poisoned. -/
def TileCopy.rowBad (t : TileCopy) (r : Nat) : Bool := t.poison.getLsbD (r % 64)

/-! ### Residency and poison of beats (R257) -/

/-- The tile rows that byte `o` of a copy belongs to, as stored. -/
def byteRows (f : Form) (size o : Nat) : List Nat :=
  if f = .plane && size = 1024 then (List.range 8).map fun i => o / 128 * 8 + i
  else if size = f.tileBytes then
    (match f.width with
    | 8 => [o / 64]
    | 32 => [o / 256]
    | 64 => [o / 512]
    | _ => [o % 512 / 8])
  else if f.width = 4 then (List.range 8).map fun i => o % (size / 4) / (size / 32) * 8 + i
  else (List.range 8).map fun i => o / (size / 8) * 8 + i

def rowMask (l : List Nat) : DWord := l.foldl (fun m r => m ||| (1 <<< (r % 64))) 0

/-- Rows of a copy poisoned by bad bytes from `lo` to `hi` of its source: all of them in a transposed copy. -/
def badRows (t : TileCopy) (lo hi : Nat) : DWord :=
  if hi ≤ lo then 0
  else if t.transposed then BitVec.allOnes 64
  else (List.range (hi - lo)).foldl (fun m i => m ||| rowMask (byteRows t.form t.size (lo + i))) 0

/-- Where byte `o` of a source lands in a copy: the copy's bytes that it gives, as offset and, for bit planes, bit by bit. A byte
of a transposed 8-bit, FP32 or INT32 tile moves whole; one of a bit plane gives eight bits (R244). -/
def putByte (t : TileCopy) (m : Mem) (base o : Nat) (b : Byte) : Mem :=
  if !t.transposed then m.write (base + o) b
  else
    match t.form.width with
    | 8 => m.write (base + (64 * (o % 64) + o / 64)) b
    | 32 => m.write (base + 4 * (64 * (o / 4 % 64) + o / 256) + o % 4) b
    | 64 => m.write (base + o) b
    | _ =>
      (List.range 8).foldl (fun m i =>
        let e := o % 512 * 8 + i
        let e' := 64 * (e % 64) + e / 64
        let a := base + o / 512 * 512 + e' / 8
        let old := m.read a
        let bit1 : Byte := 1 <<< (e' % 8)
        m.write a (if b.getLsbD i then old ||| bit1 else old &&& ~~~bit1)) m

end Sys2Proof.Machine
end

