-- ==== Sys2Proof/Machine/Plan.lean ====
section
/-! DEFINITION. The fetch stage and the issue of commands (R249, R266 to R268), and the commands END, WAIT_BEAT, MARK (R291) and
REDUCE (R202 to R207, R218). -/

namespace Sys2Proof.Machine

/-! ### The next command -/

/-- The command at the head of the fetch stage: of the plan, or of the body of the ROSTER_STEP in progress (R298). -/
structure Next where
  n : Fin 32
  job : Job
  ref : CmdRef
  raw : List Byte
  step : Nat
deriving DecidableEq, Repr

/-- The fetch stage issues: a running job that has not ended, no quiescing, and no pre-emption but one that goes on towards a
cheap point (R317, R323). The body of a ROSTER_STEP belongs to that command, and goes on as it does (R318, R323). A lead pair that holds a fault report
issues nothing (R404). -/
def State.fetching (s : State) : Option (Fin 32 × Job) :=
  match s.running with
  | none => none
  | some (n, j) =>
    let open_ := match j.roster with
      | none => s.fetchOpen j
      | some ro => s.ready && !j.ended && s.goesOn (s.shielded n ro.ref)
    if open_ && !s.unitHeld .seqPair s.leadIx then some (n, j) else none

/-- Command `i` of the plan, once the chunk that holds it has been read. -/
def Job.planCommand (j : Job) (i : Nat) : Option (List Byte) :=
  match j.chunks.find? fun c => c.number == i / 64 with
  | none => none
  | some c => if c.bytes.length ≤ 64 * (i % 64) then none else some ((c.bytes.drop (64 * (i % 64))).take 64)

/-- The step of an in-flight command, for those of its body. -/
def Job.stepOf (j : Job) (r : CmdRef) : Nat := ((j.flightOf r).map (·.step)).getD 0

def State.next (s : State) : Option Next :=
  match s.fetching with
  | none => none
  | some (n, j) =>
    match j.roster with
    | some ro =>
      if ro.phase == .body && !ro.bodyDone then
        some { n := n, job := j, ref := ⟨ro.ref.plan, some ro.bodyPos⟩, raw := s.near (ro.body + 64 * ro.bodyPos) 64
               step := j.stepOf ro.ref }
      else none
    | none =>
      (j.planCommand j.fetchPos).map fun b =>
        { n := n, job := j, ref := ⟨j.fetchPos, none⟩, raw := b, step := (j.desc.baseStep + u16 b 2) % 2 ^ 32 }

/-- Where the command of a roster body stands (R298). -/
def Next.own (x : Next) : List (Bool × Nat × Nat) :=
  match x.ref.body, x.job.roster with
  | some i, some ro => [(false, ro.body + 64 * i, 64)]
  | _, _ => []

/-- The command of a body has not been read yet. -/
def Next.unread (x : Next) : Bool :=
  x.own.any fun r => x.job.desc.mayRead r.1 r.2.1 r.2.2 && !x.job.ask.ranges.contains r

/-- The next command, if its opcode is one of those given; one of a body that has still to be read, whatever memory shows there. -/
def State.nextOf (s : State) (codes : List Nat) : Option Next :=
  s.next.bind fun x => if codes.contains (u8 x.raw 0) || x.unread then some x else none

/-! ### Header fields (Table 11-5) -/

def Next.dep (x : Next) : Bool := bit (u8 x.raw 1) 0
def Next.cheap (x : Next) : Bool := bit (u8 x.raw 1) 1
def Next.label (x : Next) : Word := w32 x.raw 4

/-- The UPDATE mode of a command. -/
def updateOp (raw : List Byte) : Op :=
  match u8 raw 0xE % 4 with
  | 0 => .apply
  | 1 => .lazy
  | 2 => .normsq
  | _ => .updateBad

/-- The operation of an opcode (Table 11-6). -/
def opOf (raw : List Byte) : Op :=
  match u8 raw 0 with
  | 0x00 => .endPlan
  | 0x08 => .waitBeat
  | 0x09 => .mark
  | 0x10 => .product
  | 0x20 => .move
  | 0x21 => .gather
  | 0x22 => .scatterAdd
  | 0x30 => .settle
  | 0x40 => .reduce
  | 0x50 => updateOp raw
  | 0x60 => .prune
  | 0x61 => .regrow
  | 0x62 => .commit
  | 0x63 => .score
  | 0x70 => .rosterStep
  | _ => .unknown

def Op.isMask : Op → Bool
  | .prune | .regrow | .commit | .score => true
  | _ => false

/-- Commands that a roster body may hold (R298). -/
def Op.inBody : Op → Bool
  | .product | .move | .gather | .scatterAdd | .settle | .mark | .endPlan => true
  | _ => false

/-- Descriptors that a command names (R189). -/
def cmdDescs (raw : List Byte) : List Nat :=
  let at_ (l : List Nat) : List Nat := (l.map (u16 raw)).filter (· ≠ 0xFFFF)
  match opOf raw with
  | .product => at_ [0x08, 0x0A, 0x0C, 0x0E, 0x10, 0x12, 0x14, 0x16, 0x18, 0x1A, 0x36]
  | .move | .gather | .scatterAdd => at_ [0x08, 0x0A, 0x0C]
  | .settle => at_ [0x08, 0x0A, 0x0C, 0x0E]
  | .apply | .lazy | .normsq | .updateBad => at_ [0x08, 0x0A]
  | .prune | .regrow | .commit | .score => at_ [0x08]
  | _ => []

/-! ### Issue -/

/-- Commands of the job before this one that are in flight: for one of a body, without the ROSTER_STEP around it. -/
def Next.before (x : Next) : List InFlight := if x.ref.body.isSome then x.job.flight.filter (·.op != .rosterStep) else x.job.flight

def meets (a b : List Nat) : Bool := a.any b.contains

/-- R166, R189, R237, R249 and Table 11-6: whether the command may issue now. -/
def Next.mayIssue (x : Next) : Bool :=
  let op := opOf x.raw
  let ds := cmdDescs x.raw
  let waits := x.dep || op.isMask || op == .mark || op == .endPlan
  (!waits || x.before.isEmpty) && x.before.all fun f =>
    !f.op.isMask && !(f.op.isUpdate && meets f.descs ds) && !(op.isUpdate && meets f.descs ds)
      && !(match f.relocate with | some (i, _, _) => ds.contains i | none => false)

/-- The command in flight, as it issues. -/
def Next.flight (x : Next) : InFlight where
  ref := x.ref
  op := opOf x.raw
  raw := x.raw
  step := x.step
  label := x.label
  cheap := x.cheap
  nopre := bit (u8 x.raw 1) 2 || opOf x.raw == .commit
  deferred := bit (u8 x.raw 1) 3
  descs := cmdDescs x.raw
  writes := []
  target := 0
  prod := none
  mv := none
  events := []
  ending := none
  stages := []
  faulted := none
  relocate := none
  skipped := false
  ringStep := none
  work := none
  bad := []

/-- SEQ_LAST_INDEX of the lead pair, which issues the command. -/
def State.markIssued (s : State) (r : CmdRef) : State :=
  allPairs.foldl (fun s i => if i.val = s.leadIx then s.modPair i fun p => { p with lastIndex := planWord r } else s) s

/-- The fetch stage moves past a command. -/
def State.passFetch (s : State) (x : Next) : State :=
  s.modJob x.n fun j =>
    if x.ref.body.isSome then { j with roster := j.roster.map fun ro => { ro with bodyPos := ro.bodyPos + 1 }, ask := Ask.none }
    else { j with fetchPos := j.fetchPos + 1, chunks := j.chunks.filter fun c => (j.fetchPos + 1) / 64 ≤ c.number, ask := Ask.none }

/-- A command that carries the cheap flag and has an entry of the cheap-point table stops the fetch stage, where a pre-emption
waits for a cheap point (R322, R323). -/
def Next.stopsAt (x : Next) (s : State) : Option Switch :=
  s.sched.switch.bind fun w =>
    if w.phase = .stopping && w.cheapUntil.isSome && x.ref.body.isNone && x.cheap && (s.cheapLive x.job.desc x.ref.plan).isSome then
      some { w with stopAt := some x.ref.plan }
    else none

/-- The fetch stage passes a command, and the lead pair issues it. -/
def State.passCommand (s : State) (x : Next) : State :=
  let s1 := (s.markIssued x.ref).passFetch x
  match x.stopsAt s with
  | some w => { s1 with sched := { s1.sched with switch := some w } }
  | none => s1

/-- The scope of a fault at issue (Table 17-2). -/
def issueScope (code : Half) : Scope :=
  if code = 0x0201 then .step else if code = 0x0107 || code = 0x0123 || code = 0x0207 then .cmd else .issue

/-- A command issues. -/
def State.issueNext (s : State) (x : Next) (f : InFlight) : State :=
  (s.passCommand x).modJob x.n fun j => { j with flight := j.flight ++ [f] }

/-- R267: every byte of a command from `off` on that no field uses, and header bits [15:12], are reserved. -/
def reservedOk (raw : List Byte) (off : Nat) : Bool := bits (u8 raw 1) 7 4 == 0 && zeroRange raw off (64 - off)

/-- The checks that every command makes: its body's rules (R298) and its reserved fields. `holes` holds the reserved ranges. DESIGN CHOICE (log 164): the spec
does not say which structure the "completion area" of R267 is, nor that a command reads one; none is checked. -/
def Next.check (x : Next) (used : Nat) (holes : List (Nat × Nat)) : Except Half Unit := do
  needIf x.ref.body.isSome ((opOf x.raw).inBody && u16 x.raw 2 == 0 && (x.ref.body.getD 0 < 1024)) 0x0123
  need (reservedOk x.raw used && holes.all fun h => zeroRange x.raw h.1 h.2) 0x0102

/-- A command of a body is read where it stands (R298): outside the windows, or poisoned, it fails at issue. -/
def State.bodyRead (s : State) (x : Next) : Except Half Unit :=
  match x.ref.body, x.job.roster with
  | some i, some ro => do
    need (x.job.desc.mayRead false (ro.body + 64 * i) 64) 0x0201
    need (!s.ext.poisoned false (ro.body + 64 * i) 64) 0x0107
  | _, _ => .ok ()

/-- Ranges of memory, by tier, address and length. A range at address 0 names nothing. -/
def named (a n : Nat) : List (Bool × Nat × Nat) := if a = 0 then [] else [(false, a, n)]

/-- A descriptor, and once it has been read what it points to: its extension, the mask record of a sparse tensor, the alternate of fallback ALT, and where
the command uses scales its scale record (R267, R271, R68, R154, R256). -/
def State.descRanges (s : State) (j : JobDesc) (read : (Bool × Nat × Nat) → Bool) (scaled : Bool) (i : Nat) : List (Bool × Nat × Nat) :=
  let at_ (i : Nat) : Bool × Nat × Nat := (false, j.descTable + 64 * i, 64)
  let other (i : Nat) : List (Bool × Nat × Nat) := if i = 0xFFFF || j.descCount ≤ i then [] else [at_ i]
  let more (b : List Byte) : List (Bool × Nat × Nat) :=
    other (u16 b 0x3E) ++ (if scaled then named (u64 b 0x20) 128 else []) ++ if u8 b 2 % 4 < 2 then [] else named (u64 b 0x28) 512
  if j.descCount ≤ i then []
  else if !read (at_ i) then [at_ i]
  else
    let b := s.near (at_ i).2.1 64
    let alt := if bits (u8 b 2) 3 2 = 1 then other (u16 b 0x3C) else []
    at_ i :: more b ++ alt ++ if alt.all read then (alt.map fun r => more (s.near r.2.1 64)).flatten else []

/-- The group record of an UPDATE and its curve, and for a group that is not frozen the norm record and the divisor (R181 to R187). -/
def State.groupRanges (s : State) (raw : List Byte) (read : (Bool × Nat × Nat) → Bool) : List (Bool × Nat × Nat) :=
  let g := u64 raw 0x20 + 64 * u16 raw 0xC
  let r : Bool × Nat × Nat := (false, g, 64)
  if !read r then [r]
  else
    [r, (false, u64 raw 0x20 + 0x40000 + 512 * u16 raw 0xC, 8 * Nat.min 64 (Nat.max 1 (s.ext.near.read (g + 0x1C)).toNat))]
      ++ if bit (u32 (s.near g 64) 0) 0 then [] else named (u64 raw 0x10) 8 ++ named (u64 raw 0x18) 32

/-- The count of a list command, and once it and the list's descriptor have been read the list (R246). -/
def State.listRanges (s : State) (x : Next) (read : (Bool × Nat × Nat) → Bool) : List (Bool × Nat × Nat) :=
  let ca := u64 x.raw 0x20
  let count := named ca 4
  let i := u16 x.raw 0xC
  if !count.all read || x.job.desc.descCount ≤ i || !read (false, x.job.desc.descTable + 64 * i, 64) then count
  else
    match s.operand x.job x.ref i with
    | .ok d =>
      let n := if ca = 0 then d.rows else s.ext.near.field ca 4
      count ++ if n = 0 || 16384 < n then [] else [(d.far, d.base, 4 * n)]
    | .error _ => count

/-- The commands whose operands are read or written with scales (R60, R69, R72). -/
def Op.scales : Op → Bool
  | .product | .settle | .apply | .lazy => true
  | _ => false

/-- The ranges of control data that a command names, as far as what names them has been read. -/
def State.controlRanges (s : State) (x : Next) : List (Bool × Nat × Nat) :=
  let j := x.job.desc
  let read (r : Bool × Nat × Nat) : Bool := x.job.ask.ranges.contains r || !j.mayRead r.1 r.2.1 r.2.2
  let raw := x.raw
  let descs (l : List Nat) : List (Bool × Nat × Nat) := (l.map (s.descRanges j read (opOf raw).scales)).flatten
  let more : List (Bool × Nat × Nat) :=
    match opOf raw with
    | .product => named (u64 raw 0x38) (16 * if bit (u32 raw 0x30) 9 then u16 raw 0x34 else 1)
    | .apply | .lazy => s.groupRanges raw read
    | .normsq => named (u64 raw 0x10) 8 ++ named (u64 raw 0x18) 32
    | .gather | .scatterAdd => s.listRanges x read
    | .reduce => named (u64 raw 0x10) 64 ++ named (u64 raw 8) 256 ++ named (u64 raw 0x20) 4
    | .rosterStep =>
      let h : Bool × Nat × Nat := (false, u64 raw 8, 4096)
      if read h then h :: descs ([u16 (s.near h.2.1 64) 0x20, u16 (s.near h.2.1 64) 0x22].filter (· ≠ 0xFFFF)) else [h]
    | _ => []
  if x.unread then x.own else x.own ++ descs (cmdDescs raw) ++ more

/-- The reads of control data that the lead pair makes for a command: a body command itself (R298), the descriptors that it names with what they point to,
and the records of its family. None goes out outside the windows: that is the command's fault. -/
def State.controlReads (s : State) (x : Next) : List (Bool × Nat × Nat) :=
  ((s.controlRanges x).filter fun r => x.job.desc.mayRead r.1 r.2.1 r.2.2).eraseDups

/-- What the control data still want: none once every read has gone out and has been answered. Reads go out once the command may issue; the reads of what a
record points to once it has come. -/
def State.askStep (s : State) (x : Next) : Option State :=
  let missing := (s.controlReads x).filter fun r => !x.job.ask.ranges.contains r
  if s.reading (.control x.n) || (!missing.isEmpty && !x.unread && !x.mayIssue) then some s
  else if missing.isEmpty then none
  else some ((s.modJob x.n fun j => { j with ask := { j.ask with ranges := j.ask.ranges ++ missing } }).fetchAll (.control x.n) missing)

/-- Control data have come; what they point to is read. -/
def State.controlStep (s : State) (n : Fin 32) : State :=
  match s.next with
  | some x => if x.n = n && !x.job.ask.ranges.isEmpty then (s.askStep x).getD s else s
  | none => s

/-- The state that the checks of a command see: beats of its control data that came back unusable are poisoned (R257, R361). -/
def State.asked (s : State) (x : Next) : State :=
  { s with ext := x.job.ask.bad.foldl (fun e b => e.setPoison b.1 (insertNat b.2 (e.poison b.1))) s.ext }

/-- The address of a command's first request outside the windows at its issue (R234). -/
def State.refusedAt (s : State) (x : Next) : Nat :=
  let j := x.job.desc
  let out (l : List (Bool × Nat × Nat)) (w : Bool) : Option Nat :=
    (l.find? fun r => !(if w then j.mayWrite r.1 r.2.1 r.2.2 else j.mayRead r.1 r.2.1 r.2.2)).map fun r =>
      if w then j.missWrite r.1 r.2.1 r.2.2 else j.missRead r.1 r.2.1 r.2.2
  let raw := x.raw
  let wide := if bit (u8 raw 0x2A) 2 then 8 else 4
  let ext := if opOf raw = .reduce then (List.range (s.ext.near.read (u64 raw 8 + 0x30)).toNat).map fun i => s.near (u64 raw 8 + 0x40 + 24 * i) 24 else []
  (out (s.controlRanges x) false).getD ((out (named (u64 raw 8) 256) true).getD
    ((out (ext.map fun b => (false, u64 b 0, u32 b 0x10 * wide)) false).getD
      ((out (ext.map fun b => (false, u64 b 8, 4 * u32 b 0x10)) true).getD (u64 raw 8))))

/-- A command that fails at issue: a request outside the windows is refused at its port (Table 16-19), and nothing is done, and later commands issue as if it had completed (R268). -/
def State.failNext (s : State) (x : Next) (code : Half) : State :=
  ((if code = 0x0201 then s.refuseAt (s.refusedAt x) else s).passCommand x).failIssue x.n x.flight code (issueScope code)

/-- Issue of a command whose checks give what it then does; first its control data are read. -/
def State.issueWith {α : Type} (s : State) (codes : List Nat) (check : State → Next → Except Half α) (run : Next → α → State) : State :=
  match s.nextOf codes with
  | none => s
  | some x =>
    match s.askStep x with
    | some t => t
    | none =>
      if !x.mayIssue then s
      else
        match (do (s.asked x).bodyRead x; check (s.asked x) x) with
        | .error c => s.failNext x c
        | .ok a => run x a

/-! ### Reading the plan -/

/-- The command of the plan that the fetch stage has come to cannot be read. Poison or a parity error ends the job there (R266). DEDUCED (log 64): outside
the windows the command alone ends, at its step (Table 17-2). -/
def State.planEnds (s : State) (n : Fin 32) (j : Job) (i : Nat) : State :=
  let a := j.desc.planBase + 64 * i
  if j.desc.mayRead false a 64 then s.jobFault 0x0107 .seqPair s.leadIx (BitVec.ofNat 32 i) 0
  else
    let x : Next := { n := n, job := j, ref := ⟨i, none⟩, raw := [], step := j.desc.baseStep }
    ((s.refuseAt a).passCommand x).failIssue n x.flight 0x0201 .step

/-- A chunk of the plan has come: its commands up to the first that cannot be read are kept. -/
def State.takeChunk (s : State) (n : Fin 32) (j : Job) (k : Nat) (bad : Nat → Bool) : State :=
  let a := j.desc.planBase + 4096 * k
  let from_ := if j.fetchPos / 64 = k then j.fetchPos % 64 else 0
  let b := if j.desc.mayRead false a 4096 then s.near a 4096 else []
  let kept := match if b.isEmpty then some 0 else firstBad b bad (64 - from_) from_ with
    | some i => b.take (64 * i)
    | none => b
  s.modJob n fun j => { j with chunks := j.chunks ++ [{ number := k, bytes := kept }], reading := none }

/-- PLAN_READ_DONE (R266): a chunk of the plan that was asked for has arrived; the next one is asked for where it is due. Once the fetch stage has come to a
command that cannot be read, it ends (DEDUCED, log 58). -/
def execPlanReadDone (clean : Bool) (s : State) : Host.Outcome State Fault Refusal :=
  match s.running with
  | none => .next s
  | some (n, j) =>
    if !s.ready || s.mgmt.quiesce.isSome || j.ended || s.reading (.plan n) || s.unitHeld .seqPair s.leadIx then .next s
    else
      match j.reading, j.badReached with
      | some (k, bad), _ =>
        let a := j.desc.planBase + 4096 * k
        let s1 := (s.countParity a (!bad.isEmpty) (!clean)).takeChunk n j k fun i => !clean || bad.contains (a / 512 + i)
        match s1.running with
        | none => .next s1
        | some (n, j) =>
          match j.badReached with
          | some (some i) => .next (s1.planEnds n j i)
          | _ => .next s1.readChunk
      | none, some (some i) => .next (s.planEnds n j i)
      | none, _ => .next s.readChunk

/-- UNKNOWN_OPCODE (R267). -/
def execUnknownOpcode (s : State) : Host.Outcome State Fault Refusal :=
  match s.next with
  | none => .next s
  | some x =>
    match s.askStep x with
    | some t => .next t
    | none => if opOf x.raw == .unknown && x.mayIssue then .next (s.failNext x 0x0101) else .next s

/-! ### END, WAIT_BEAT and MARK (Table 11-20) -/

/-- Whether a write awaits its response that the END of the job waits for (R291): of its commands, or of the block, as its status bytes are. The
engines' buckets have passed by then. -/
def State.jobWritesOpen (s : State) (n : Fin 32) : Bool := s.outstanding fun q => q.write && (q.origin.isJob n || q.origin == .block)

/-- END. The END of a body ends the body once its commands have completed (R298); the END of a plan ends the job. -/
def execEndPlan (s : State) : Host.Outcome State Fault Refusal :=
  match s.nextOf [0x00] with
  | none => .next s
  | some x =>
    match s.askStep x with
    | some t => .next t
    | none =>
    if !x.mayIssue || s.jobWritesOpen x.n || s.jobHeld x.n then .next s
    else
      match (do (s.asked x).bodyRead x; x.check 8 []) with
      | .error c => .next (s.failNext x c)
      | .ok _ =>
        if x.ref.body.isSome then
          .next (s.modJob x.n fun j => { j with roster := j.roster.map fun ro => { ro with phase := .retire, bodyDone := true }, ask := Ask.none })
        else
          let s1 := (s.passCommand x).writeStatus x.n x.ref 0x01
          let s2 := s1.modJob x.n fun j => { j with done := j.done + 1, ends := j.ends ++ [⟨x.ref.plan, x.step, false⟩] }
          .next (s2.endRunning x.n 1)

/-- WAIT_BEAT issues (R291). DESIGN CHOICE (log 127): a relative target beyond 2^64 wraps, so the observed beat is above it at once. -/
def execWaitBeat (s : State) : Host.Outcome State Fault Refusal :=
  .next (s.issueWith [0x08] (fun _ x => do
      x.check 0x11 []
      need (u8 x.raw 0x10 < 2) 0x0102)
    fun x _ =>
      let b := w64 x.raw 8
      let f := { x.flight with target := if bit (u8 x.raw 0x10) 0 then s.beatNow + b else b }
      s.issueNext x f)

/-- WAIT_BEAT_TARGET: the target of a WAIT_BEAT in flight is reached (R7). -/
def execWaitBeatTarget (cmd : CmdRef) (s : State) : Host.Outcome State Fault Refusal :=
  match s.running with
  | none => .next s
  | some (n, _) =>
    match s.flight n cmd with
    | none => .next s
    | some f =>
      if s.ready && s.mgmt.quiesce.isNone && f.op == .waitBeat && f.ending.isNone && s.reached f.target then .next (s.completeCmd n cmd 0x01)
      else .next s

/-- MARK: its value is written, irq_job rises if asked, and the command completes at the write's response. -/
def execMark (s : State) : Host.Outcome State Fault Refusal :=
  .next (s.issueWith [0x09] (fun _ x => do
      x.check 0x19 []
      need (u8 x.raw 0x18 < 2) 0x0102
      need (u64 x.raw 8 != 0 && u64 x.raw 8 % 8 == 0) 0x0103)
    fun x _ =>
      let f := x.flight
      let a := u64 x.raw 8
      if !x.job.desc.mayWrite false a 8 then
        let s1 := s.issueNext x f
        s1.windowFault x.n x.ref a
      else
        let s1 := (s.issueNext x { f with writes := [(a, 8)] }).jobWrite (.cmd x.n x.ref) false false a (leBytes 8 (u64 x.raw 0x10)) []
        let s2 := if bit (u8 x.raw 0x18) 0 then s1.raiseIrq 1 else s1
        s2.completeCmd x.n x.ref 0x01)

/-! ### REDUCE (Table 11-16) -/

/-- The extents of a bucket record: source, destination and elements. -/
def readExtents (b : List Byte) : List (Nat × Nat × Nat) :=
  (List.range (u8 b 0x30)).map fun i => (u64 b (0x40 + 24 * i), u64 b (0x48 + 24 * i), u32 b (0x50 + 24 * i))

/-- No two of the ranges meet. -/
def disjoint : List (Nat × Nat) → Bool
  | [] => true
  | x :: r => r.all (fun y => !rangesMeet x y) && disjoint r

/-- R205, and the thinning form of R225. -/
def bucketOk (b : List Byte) (wide : Bool) (thin : Nat) : Bool :=
  let l := readExtents b
  let e := (l.map (·.2.2)).sum
  let k := if wide then 8 else 4
  let one (x : Nat × Nat × Nat) : Bool :=
    x.1 % 256 == 0 && x.2.1 % 256 == 0 && (!rangesMeet (x.1, x.2.2 * k) (x.2.1, x.2.2 * 4) || (x.1 == x.2.1 && !wide))
  1 ≤ u8 b 0x30 && u8 b 0x30 ≤ 8 && 0 < e && e < 2 ^ 32 && bits (u32 b 4) 31 3 == 0 && zeroRange b 0x31 3 && zeroRange b 0x38 8
    && (List.range 8).all (fun i => zeroRange b (0x54 + 24 * i) 4) && l.all one && disjoint (l.map fun x => (x.2.1, 4 * x.2.2))
    && !(thin > 1 && !wide)

/-- The checks of a REDUCE at issue, and the bucket as handed to its channel engine. -/
def State.checkReduce (s : State) (x : Next) : Except Half (Fin 4 × Reduce) := do
  x.check 0x2C []
  let c := u8 x.raw 0x2A
  need (c < 8) 0x0102
  let k : Fin 4 := ⟨c % 4, by omega⟩
  let ring := chanRing k
  let ba := u64 x.raw 8
  let sa := u64 x.raw 0x10
  let thin := u8 x.raw 0x2B
  let wa := u64 x.raw 0x20
  let seq := u16 x.raw 0x28
  need (ba != 0 && ba % 256 == 0 && sa != 0 && sa % 64 == 0 && 1 ≤ thin && thin ≤ 64) 0x0103
  need ((if ring = 0 then x.job.desc.ringA else x.job.desc.ringB) && s.ringUp ring) 0x0401
  let st ← s.record x.job.desc sa 64 0x0107
  let step := w32 st 0
  let grace := u32 st 0x10
  need (zeroRange st 0x14 44 && step != 0 && w32 st 4 != 0 && 1 ≤ grace && grace ≤ 1048576) 0x0408
  need (x.job.flight.all fun f => f.ringStep.getD step == step) 0x0408
  let b ← s.record x.job.desc ba 256 0x0107
  need (bucketOk b (bit c 2) thin) 0x0407
  let tag := w32 st 4
  let want : Nat := match x.job.chanSeq[k] with
    | some (t, g, q) => if t = step && g = tag then q + 1 else 0
    | none => 0
  need (seq == want) 0x0409
  let l := readExtents b
  need (x.job.desc.mayWrite false ba 256 && l.all fun e =>
    x.job.desc.mayRead false e.1 (e.2.2 * if bit c 2 then 8 else 4) && x.job.desc.mayWrite false e.2.1 (4 * e.2.2)) 0x0201
  let weight ← if wa = 0 then pure (u32 x.raw 0x18) else (s.record x.job.desc wa 4 0x0107).map fun w => u32 w 0
  let base := w64 st 8
  let dl := u32 x.raw 0x1C
  let inc := s.included k x.n
  let pos := s.ringPos ring
  return (k,
    { job := x.n, ref := x.ref, bucket := ba, step := step, tag := tag, weight := weight
      deadline := if dl = 0 then none else some (base + BitVec.ofNat 64 dl)
      limit := base + BitVec.ofNat 64 (dl + grace), seq := seq, wide := bit c 2, thin := thin, extents := l
      elements := (l.map (·.2.2)).sum, members := popcount inc.toNat 128
      rank := ((List.range pos).filter fun i => inc.getLsbD i).length, mask := 1 <<< pos })

/-- Table 11-6: the place on a full channel for which a REDUCE waits at issue (R219). -/
def State.channelFull (s : State) (x : Next) : Bool := (s.channels[(⟨u8 x.raw 0x2A % 4, by omega⟩ : Fin 4)]).staging.length ≥ 64

/-- REDUCE is handed to its channel engine, and the plan goes on (R207). -/
def execReduce (s : State) : Host.Outcome State Fault Refusal :=
  match s.nextOf [0x40] with
  | none => .next s
  | some x =>
    if x.ref.body.isNone && s.channelFull x then .next s
    else
      .next (s.issueWith [0x40] State.checkReduce fun x kr =>
        let writes := (kr.2.extents.map fun e => (e.2.1, 4 * e.2.2)) ++ [(kr.2.bucket, 256)] ++ if kr.2.thin > 1 then kr.2.sources else []
        let s1 := s.issueNext x { x.flight with writes := writes, ringStep := some kr.2.step }
        (s1.modJob x.n fun j => { j with chanSeq := vset j.chanSeq kr.1 (some (kr.2.step, kr.2.tag, kr.2.seq)) }).modChan kr.1 fun c =>
          { c with staging := c.staging ++ [kr.2] })

end Sys2Proof.Machine
end

