-- ==== Sys2Proof/Machine/Product.lean ====
section
/-! DEFINITION. The issue of a PRODUCT (R274 to R286, R408 and the rules they cite): its checks, its shape and its items. -/

namespace Sys2Proof.Machine

/-! ### The drain chain (Tables 11-12 and 06-6, R142, R272, R273) -/

def funcOf (sel k : Nat) : Option Func :=
  if sel = 1 then (if 1 ≤ k && k ≤ 8 then some (.leaky k) else none)
  else if k ≠ 0 then none
  else
    match sel with
    | 0 => some .relu
    | 2 => some .sigmoid
    | 3 => some .tanh
    | 4 => some .silu
    | 5 => some .gelu
    | 6 => some .exp
    | 7 => some .recip
    | 8 => some .rsqrt
    | _ => none

def planeOf : Nat → Option PlaneKind
  | 0 => some .pos
  | 1 => some .neg
  | 2 => some .nonzero
  | _ => none

def Func.hasDeriv : Func → Bool
  | .exp | .recip | .rsqrt => false
  | _ => true

/-- A stage entry; none where R272 calls it invalid. -/
def stageOf (e : Nat) : Option Stage :=
  let sel := bits e 7 4
  let k := bits e 11 8
  let plain (st : Stage) : Option Stage := if sel = 0 && k = 0 then some st else none
  match e % 16 with
  | 1 => plain .bias
  | 2 => plain .add
  | 3 => plain .mul
  | 4 => (funcOf sel k).map .func
  | 5 => (funcOf sel k).bind fun f => if f.hasDeriv then some (.deriv f) else none
  | 6 => plain .rowdot
  | 7 => plain .softmaxBwd
  | 8 => plain .normBwd
  | 9 => plain .rotate
  | 10 => plain .narrow
  | 11 => plain .requant
  | 12 => if k = 0 then (planeOf sel).map .plane else none
  | _ => none

/-- The stages of a chain; none for an invalid entry, or one that is not zero after the end. -/
def readChain : List Nat → Option (List Stage)
  | [] => some []
  | e :: r =>
    if e % 16 = 0 then (if e = 0 && r.all (· == 0) then some [] else none)
    else
      match stageOf e, readChain r with
      | some st, some l => some (st :: l)
      | _, _ => none

/-- Side operands of a stage (R273). -/
def Stage.sides : Stage → Nat
  | .bias | .add | .mul | .deriv _ | .plane _ => 1
  | .rowdot => 2
  | .softmaxBwd => 3
  | .normBwd => 4
  | _ => 0

def Stage.isPlane : Stage → Bool
  | .plane _ => true
  | _ => false

def Stage.narrows : Stage → Bool
  | .narrow | .requant => true
  | _ => false

/-- Stages marked A in Table 06-6. -/
def Stage.inAccum : Stage → Bool
  | .add | .mul | .narrow => true
  | _ => false

/-- R142, but for the side operands. -/
def chainOk (accum float : Bool) (fp32Form : Bool) (l : List Stage) : Bool :=
  (l.dropLast.all fun st => !st.narrows)
    && (l.getLast? ≠ some .requant || (!float && l.dropLast.all Stage.isPlane))
    && (!accum || l.isEmpty || (fp32Form && float && l.all Stage.inAccum))

def Stage.ends (l : List Stage) (st : Stage) : Bool := l.getLast? == some st

/-- The side operands of each stage: its first index in side[]. -/
def sideStarts : List Stage → Nat → List (Stage × Nat)
  | [], _ => []
  | st :: r, i => (st, i) :: sideStarts r (i + st.sides)

def sideCount (l : List Stage) : Nat := (l.map Stage.sides).sum

/-- How a side operand meets the result: what its descriptor must be. -/
inductive SideRole
  | tile       -- P × N, FP32 or narrow
  | colVector  -- one row of N
  | rowVector  -- P rows, one value each
  | table      -- partial table of ROWDOT, FP32
  | planeOut   -- bit plane written
deriving DecidableEq, Repr

def Stage.roles : Stage → List SideRole
  | .bias => [.colVector]
  | .add | .mul | .deriv _ => [.tile]
  | .plane _ => [.planeOut]
  | .rowdot => [.tile, .table]
  | .softmaxBwd => [.tile, .rowVector, .table]
  | .normBwd => [.tile, .rowVector, .colVector, .table]
  | _ => []

/-- Stage and place among the stage's side operands of each entry of side[]. -/
def chainRoles (l : List Stage) : List (Stage × SideRole) := (l.map fun st => st.roles.map fun r => (st, r)).flatten

/-- Form and dimensions of a side operand (R145, R274). -/
def sideOk (p n : Nat) (x : SideRole) (d : Desc) : Except Half Unit := do
  let vec := d.layout == .tiles || d.layout == .rows
  need (!(d.sparse && d.form.isCode)) 0x0115
  match x with
  | .tile => do
    need (d.layout == .tiles && (d.form.isCode || d.form == .fp32)) 0x0103
    need (d.rows == p && d.cols == n) 0x0108
  | .planeOut => do
    need (d.layout == .tiles && d.form == .plane) 0x0103
    need (d.rows == p && d.cols == n) 0x0108
  | .colVector => do
    need (vec && d.form == .fp32) 0x0103
    need (d.cols == n) 0x0108
  | .rowVector => do
    need (vec && d.form == .fp32) 0x0103
    need (d.rows == p) 0x0108
  | .table => need (vec && d.form == .fp32) 0x0103

/-! ### Fields (Tables 11-9 to 11-11) -/

structure ProdFields where
  kind : ProductKind
  mode : Mode
  dual : Bool
  shape : Option Shape
  depth : Nat
  splitK : Nat
  repro : Bool
  compact : Bool
  comp : Bool
  cand : Bool
  settleForm : SettleForm
  prologue : Prologue
  proK : Int
  candStride : Nat
  perItem : Bool
  pin : Nat
  aSrc : Nat
  aQueue : Nat
  nOuter : Bool
  walk : Nat
  l2Log : Nat
  batch : Nat
  boundsAddr : Nat
deriving DecidableEq, Repr

def kindOf : Nat → Option ProductKind
  | 0 => some .forward
  | 1 => some .inputGrad
  | 2 => some .weightGrad
  | _ => none

def modeOf : Nat → Option Mode
  | 0 => some .mac
  | 1 => some .sqdist
  | 2 => some .l1dist
  | 3 => some .maxplus
  | 4 => some .minplus
  | _ => none

def shapeOf : Nat → Option Shape
  | 1 => some .solo
  | 2 => some .broadcast
  | 3 => some .deep
  | 4 => some .wide
  | 5 => some .square
  | 6 => some .split2
  | 7 => some .split4
  | _ => none

def settleOf : Nat → SettleForm
  | 0 => .fp32
  | 1 => .wide
  | 2 => .addWide
  | _ => .int32

def prologueOf : Nat → Option Prologue
  | 0 => some .none
  | 1 => some .zp
  | 2 => some .plane
  | 3 => some .shift
  | 4 => some .leaky
  | _ => none

/-- Range of pro_k (Table 11-10). -/
def proKOk (p : Prologue) (k : Int) : Bool :=
  match p with
  | .none | .zp => k == 0
  | .plane => 0 ≤ k && k ≤ 2
  | .shift => -8 ≤ k && k ≤ 8
  | .leaky => 1 ≤ k && k ≤ 8

/-- The fields of a PRODUCT, with the checks that concern them alone (R267, R272). DESIGN CHOICE (log 147): in the pass-through class split_k, repro, comp
and cand must be 0 as depth and settle_form must. -/
def readProdFields (b : List Byte) : Except Half ProdFields := do
  let c := u32 b 0x2C
  let c2 := u32 b 0x30
  need (!bit c 31 && bits c2 31 25 == 0 && (List.range 8).all fun i => u16 b (0x1C + 2 * i) / 4096 == 0) 0x0102
  match kindOf (c % 4), modeOf (bits c 4 2), prologueOf (bits c 25 23) with
  | some kind, some mode, some pro =>
    let accum := kind == .weightGrad
    let k : Int := (BitVec.ofNat 5 (bits c 30 26)).toInt
    let split := bits c 16 11
    let aSrc := bits c2 13 12
    let q := bits c2 17 14
    let dsat := u16 b 0x36
    let dpro := u16 b 0x0E
    let settle := settleOf (bits c 22 21)
    need (split != 1 && split ≤ 32 && u16 b 0x34 != 0 && bits c2 8 0 ≤ 256 && bits c2 11 10 != 3 && aSrc != 3
      && bits c2 20 19 != 3 && u64 b 0x38 % 16 == 0 && proKOk pro k) 0x0103
    need (if aSrc = 2 then 8 ≤ q else q == 0) 0x0103
    need (if accum then bits c 10 9 != 0
      else bits c 10 9 == 0 && bits c 22 21 == 0 && split == 0 && !bit c 17 && !bit c 19 && !bit c 20) 0x0103
    need ((pro == .plane || pro == .leaky) == (dpro != 0xFFFF)) 0x0103
    need (dsat == 0xFFFF || (accum && settle == .int32)) 0x0103
    return { kind := kind, mode := mode, dual := bit c 5, shape := shapeOf (bits c 8 6), depth := 32 * 2 ^ bits c 10 9
             splitK := split, repro := bit c 17, compact := bit c 18, comp := bit c 19, cand := bit c 20
             settleForm := settle, prologue := pro, proK := k, candStride := bits c2 8 0, perItem := bit c2 9
             pin := bits c2 11 10, aSrc := aSrc, aQueue := q, nOuter := bit c2 18, walk := bits c2 20 19
             l2Log := bits c2 24 21, batch := u16 b 0x34, boundsAddr := u64 b 0x38 }
  | _, _, _ => .error 0x0103

/-! ### Dimensions (R274, R298) -/

/-- The binding of a descriptor in a body (R298). -/
def bindingOf (l : List Binding) (d : Desc) : Option Binding := l.find? fun b => b.desc == d.index

/-- Rows and columns of an operand as one item sees it: under ROW one row, and one head's columns. -/
def seenDims (l : List Binding) (d : Desc) : Nat × Nat :=
  match bindingOf l d with
  | some b => if b.mode = 3 then (1, d.cols / b.heads) else (d.rows, d.cols)
  | none => (d.rows, d.cols)

def appends (l : List Binding) (d : Desc) : Bool := match bindingOf l d with | some b => b.mode == 2 | none => false

/-- P, K and N of Table 11-13, or the fault of descriptors that disagree. -/
def productDims (kind : ProductKind) (l : List Binding) (a w y : Desc) : Except Half RtBounds := do
  let (ar, ac) := seenDims l a
  let (yr, yc) := seenDims l y
  let (p, k) := if kind = .weightGrad then (ac, ar) else (ar, ac)
  let (n, wk) := if kind = .inputGrad then (w.rows, w.cols) else (w.cols, w.rows)
  need (wk == k && yc == n && (yr == p || appends l y)) 0x0108
  return { p := p, k := k, n := n }

/-- R298: ROW serves a streamed operand or a destination, APPEND a destination alone. -/
def bindingsOk (l : List Binding) (a w y : Desc) (others : List Desc) : Bool :=
  let mode (d : Desc) : Nat := match bindingOf l d with | some b => b.mode | none => 0
  mode a ≠ 2 && mode w ≤ 1 && others.all (fun d => mode d ≤ 1) && mode y ≤ 3

/-! ### Operand forms (R51, R53, R62, R104, R105, R110, R408) -/

/-- R62, R63 and the prologue rule of R140; `fa` and `fw` are the codes in force (R72). -/
def zeroPointsOk (f : ProdFields) (fa fw : Form) (a w : Desc) : Except Half Unit := do
  let accum := f.kind == .weightGrad
  zpOk (f.kind != .inputGrad) fa a
  zpOk false fw w
  need (w.zpMode != 2) 0x0112
  need (!(accum && a.zpMode == 1)) 0x0112
  need (!(f.prologue == .zp && a.zpMode != 2)) 0x0112
  need (a.zpMode != 2 || f.prologue == .none || f.prologue == .zp) 0x0117
  needIf (a.zpMode == 1) (f.mode != .mac || match w.ext with | some e => e.rowsumBase != 0 | none => false) 0x0103

/-- A sparse descriptor's shape and bases (R105). -/
def sparseShapeOk (d : Desc) : Except Half Unit := do
  need (d.rows % 64 == 0 && d.cols % 128 == 0) 0x0116
  need (d.base % 4096 == 0 && d.auxBase % 4096 == 0) 0x0210

/-- R241: a tile address is a multiple of 64. -/
def Desc.tilesOk (d : Desc) : Bool := d.base % 64 == 0

/-- R241: whether the tiles of an operand are aligned. -/
def Desc.aligned (d : Desc) : Bool := d.layout == .rows || d.base % Nat.min d.tileSize 4096 == 0

/-- Sparse operands (R79, R104, R105, R110, R279). -/
def sparseOk (f : ProdFields) (a w y : Desc) : Except Half Unit := do
  let accum := f.kind == .weightGrad
  needIf w.sparse w.form.isCode 0x0103
  needIf w.sparse (f.mode == .mac) 0x0114
  needIf a.sparse a.form.isCode 0x0103
  need (!a.sparse && !(w.sparse && accum) && !(y.sparse && y.form.isCode)) 0x0115
  needIf y.sparse (accum && y.maskRec % 512 == 0) 0x0103
  if w.sparse then sparseShapeOk w
  if y.sparse then sparseShapeOk y
  needIf w.sparse (w.itemStride == 0) 0x010A

/-- Table 11-22: the destination's form. -/
def destOk (f : ProdFields) (float : Bool) (chain : List Stage) (y : Desc) : Bool :=
  if f.kind = .weightGrad then
    (match f.settleForm with
    | .fp32 => float && (if Stage.ends chain .narrow then y.form.isCode && !y.sparse else y.form == .fp32)
    | .wide | .addWide => float && y.form == .wide
    | .int32 => !float && y.form == .int32 && !y.sparse)
  else if y.sparse then false
  else if Stage.ends chain .narrow then y.form.isCode
  else if Stage.ends chain .requant then y.form.isInt
  else if float then y.form == .fp32
  else if chain.all Stage.isPlane then y.form == .int32 || y.form == .fp32
  else y.form == .fp32

/-- Operand pair (R51, R53). -/
def pairOk (m : Mode) (a w : Form) : Bool := if m = .mac then pairAllowed a w else a == w

/-- Guard bits left by the prologue (R141). -/
def guardLeft (f : ProdFields) (a w : Form) : Nat :=
  let lost := match f.prologue with
    | .shift => f.proK.natAbs
    | .leaky => f.proK.toNat
    | _ => 0
  guardBits f.mode a w - lost

/-- The `s` of R141 as a positive number of halvings of the LSB. -/
def Product.lsbShift (p : Product) : Nat :=
  match p.prologue with
  | .shift => if p.proK < 0 then p.proK.natAbs else 0
  | .leaky => p.proK.toNat
  | _ => 0

/-! ### Shape and items (R280 to R283) -/

/-- Depth factor (R103, Table 05-2). -/
def depthFactor (m : Mode) (a w : Form) (sparse : Bool) : Nat :=
  (if doubleRate m a w then 2 else 1) * (if sparse then 2 else 1)

/-- Physical rows and columns of a field (Table 04-7). -/
def Shape.field : Shape → Nat × Nat
  | .solo | .broadcast => (64, 64)
  | .deep => (256, 64)
  | .wide => (64, 256)
  | .square => (128, 128)
  | .split2 => (32, 64)
  | .split4 => (32, 32)

def Shape.isSplit : Shape → Bool
  | .split2 | .split4 => true
  | _ => false

/-- Shapes that a pass depth selects (R131). -/
def accShape (d : Nat) (sh : Shape) : Bool :=
  match d, sh with
  | 64, .solo => true
  | 64, .broadcast => true
  | 64, .wide => true
  | 128, .square => true
  | 256, .deep => true
  | _, _ => false

/-- Enabled in SHAPE_MENU, and some core in service can form it. -/
def State.shapeThere (s : State) (accum : Bool) (depth : Nat) (sh : Shape) : Bool :=
  s.mgmt.rwl.shapeMenu.getLsbD sh.code && allCores.any fun c => s.canForm c accum sh depth

/-- Allowed for the command: SPLIT shapes hold the whole chain in one pass (R102), and d selects the shape (R131). -/
def shapeAllowed (accum : Bool) (depth rows : Nat) (sh : Shape) : Bool :=
  if accum then accShape depth sh else !sh.isSplit || rows ≤ 32

/-- The rows of the AUTO table. -/
def autoShapes (accum : Bool) (depth rows n : Nat) : List Shape :=
  if accum then (if depth = 64 then [.broadcast, .solo] else if depth = 128 then [.square] else [.deep])
  else if rows > 128 then [.deep, .square, .solo]
  else if rows > 64 then [.square, .solo]
  else if rows > 32 then [.solo]
  else if n ≤ 32 then [.split4, .split2, .solo]
  else [.split2, .solo]

/-- The one preference of all cores in service (R280), if it is not SOLO. -/
def State.preference (s : State) (j : JobDesc) : Option Shape :=
  match (allCores.filter fun c => s.cores[c].inService).map (s.gangPref j) with
  | [] => none
  | x :: r => if x ≠ 0 && r.all (· == x) then shapeOf (x + 1) else none

/-- The shape of a command: `rows` are the physical rows of its reduction. -/
def State.chooseShape (s : State) (j : JobDesc) (explicit : Option Shape) (accum : Bool) (depth rows n : Nat) : Except Half Shape :=
  match explicit with
  | some sh => do
    need (!sh.isSplit || (!accum && rows ≤ 32)) 0x0114
    need (s.shapeThere accum depth sh && (!accum || accShape depth sh)) 0x0109
    return sh
  | none =>
    let auto := (autoShapes accum depth rows n).find? (s.shapeThere accum depth)
    let pref := (s.preference j).filter fun sh => s.shapeThere accum depth sh && shapeAllowed accum depth rows sh
    match pref, auto with
    | some sh, _ => .ok sh
    | none, some sh => .ok sh
    | none, none => .error 0x0109

/-- Token block of the pass-through class (R281). DESIGN CHOICE (log 148): 64 tokens where not even 64 meet the limits. A reduction shallower than the field streams its own tiles only. -/
def State.tokenBlockOf (s : State) (sh : Shape) (f k aBits : Nat) : Nat :=
  let (rows, width) := sh.field
  let deep := rows * f
  let carry (tb : Nat) : Nat := ceilDiv (tb * (width / 64) * 1024) 65536
  let streamed (tb : Nat) : Nat := ceilDiv (tb * Nat.min deep (64 * ceilDiv k 64) * aBits / 8) 65536
  let ok (tb : Nat) : Bool := (k ≤ deep || 2 * carry tb ≤ s.slotSplit 1) && 2 * streamed tb ≤ s.slotSplit 0
  (([4096, 2048, 1024, 512, 256, 128] : List Nat).find? ok).getD 64

/-- Blocks (or row windows) and strips of an item grid. -/
def Product.planned (p : Product) : RtBounds :=
  let (r, c) := seenDims p.bindings p.descA
  if p.kind = .weightGrad then { p := c, k := r, n := p.descW.cols }
  else { p := r, k := c, n := if p.kind = .inputGrad then p.descW.rows else p.descW.cols }

def Product.width (p : Product) : Nat := if p.accum then 64 else p.shape.field.2
def Product.blockLen (p : Product) : Nat := if p.accum then 512 else p.tokenBlock
def Product.blocks (p : Product) : Nat := ceilDiv p.planned.p p.blockLen
def Product.strips (p : Product) : Nat := ceilDiv p.planned.n p.width
def Product.parts (p : Product) : Nat := Nat.max 1 p.splitK

/-- An item's place (R282). -/
structure ItemPos where
  batch : Nat
  block : Nat
  strip : Nat
  part : Nat
deriving DecidableEq, Repr

def Product.itemPos (p : Product) (i : Nat) : ItemPos :=
  let per := p.blocks * p.strips * p.parts
  let u := i % per / p.parts
  { batch := i / per, part := i % per % p.parts
    block := if p.nOuter then u % p.blocks else u / p.strips
    strip := if p.nOuter then u / p.blocks else u % p.strips }

/-- The run-time bounds of a batch item (R275). -/
def Product.boundsOf (p : Product) (b : Nat) : RtBounds :=
  match p.bounds with
  | [] => p.planned
  | [x] => x
  | l => l.getD b p.planned

/-- Rows and columns of an item inside its bounds: first and count. -/
def Product.itemRows (p : Product) (i : Nat) : Nat × Nat :=
  let x := p.itemPos i
  let lo := x.block * p.blockLen
  (lo, Nat.min p.blockLen ((p.boundsOf x.batch).p - lo))

def Product.itemCols (p : Product) (i : Nat) : Nat × Nat :=
  let x := p.itemPos i
  let lo := x.strip * p.width
  (lo, Nat.min p.width ((p.boundsOf x.batch).n - lo))

/-- R277: an item without an output element. -/
def Product.noop (p : Product) (i : Nat) : Bool := (p.itemRows i).2 = 0 || (p.itemCols i).2 = 0

/-- R283: slots that the whole pinned operand takes. -/
def pinSlots (f : ProdFields) (a w : Desc) : Nat :=
  let slots (d : Desc) : Nat :=
    let tiles := d.tileCount * if d.itemStride ≠ 0 then f.batch else 1
    ceilDiv (tiles * d.tileSize) 65536 + if d.sparse then ceilDiv (tiles * 1024) 65536 else 0
  if f.pin = 1 then slots w else if f.pin = 2 then slots a else 0

/-- The bounds record (R275, R276). -/
def State.readBounds (s : State) (j : JobDesc) (f : ProdFields) (plan : RtBounds) : Except Half (List RtBounds) := do
  if f.boundsAddr = 0 then return []
  let n := if f.perItem then f.batch else 1
  let b ← s.record j f.boundsAddr (16 * n) 0x0107
  let l := (List.range n).map fun i => ({ p := u32 b (16 * i), k := u32 b (16 * i + 4), n := u32 b (16 * i + 8) } : RtBounds)
  need ((List.range n).all fun i => u32 b (16 * i + 12) == 0) 0x0102
  need (l.all fun x => x.p ≤ plan.p && x.k ≤ plan.k && x.n ≤ plan.n) 0x0104
  return l

def maxOf (l : List Nat) : Nat := l.foldl Nat.max 0

/-- The largest run-time dimensions over the items (R304). -/
def largest (plan : RtBounds) : List RtBounds → RtBounds
  | [] => plan
  | l => { p := maxOf (l.map (·.p)), k := maxOf (l.map (·.k)), n := maxOf (l.map (·.n)) }

/-! ### The issue -/

/-- What a PRODUCT does at issue besides entering flight: the scale record it rewrites (R69) and the events it records. -/
structure ProdIssue where
  prod : Product
  record : Option (List Byte)
  clamped : Bool
  aligned : Bool
deriving DecidableEq, Repr

/-- Deadlines of the operands of a latency-critical job (R256). -/
def State.deadlines (s : State) (latency : Bool) (l : List (OperandRole × Desc)) : List (OperandRole × DWord) :=
  if !latency then []
  else (l.filter fun x => x.2.rtDeadline ≠ 0).map fun x => (x.1, s.beatNow + BitVec.ofNat 64 x.2.rtDeadline)

/-- The alternates of operands with fallback ALT (R256). -/
def State.alternates (s : State) (j : JobDesc) : List (OperandRole × Desc) → List (OperandRole × Desc)
  | [] => []
  | (r, d) :: rest =>
    match d.fallback, s.readAlt j d with
    | .alt, .ok a => (r, a) :: s.alternates j rest
    | _, _ => s.alternates j rest

/-- Descriptors of the side operands that a chain consumes (R273). -/
def State.readSides (s : State) (x : Next) (base count : Nat) : Nat → Except Half (List Desc)
  | 0 => .ok []
  | n + 1 => do
    let d ← s.operand x.job x.ref (u16 x.raw (base + 2 * (count - (n + 1))))
    let r ← s.readSides x base count n
    return d :: r

/-- The checks of the chain and its side operands (R142, R272, R273). `entries` are the chain's entries, `slots` those of side[]. -/
def readStages (accum float fp32Form : Bool) (entries slots : List Nat) : Except Half (List Stage) :=
  match readChain entries with
  | none => .error 0x0118
  | some l =>
    let n := sideCount l
    if chainOk accum float fp32Form l && n ≤ slots.length && (slots.take n).all (· != 0xFFFF) && (slots.drop n).all (· == 0xFFFF) then .ok l
    else .error 0x0118

/-- The destination's scale (R69, R407). -/
def State.destScale (s : State) (j : JobDesc) (chain : List Stage) (y : Desc) (step : Word) :
    Except Half (Scale × Option (List Byte) × Bool) := do
  if Stage.ends chain .narrow then s.produceScale j y step
  else if Stage.ends chain .requant then
    need (match y.ext with | some e => 1 ≤ e.reqSh && e.reqSh ≤ 62 && 2 ^ 30 ≤ e.reqM && e.reqM < 2 ^ 31 | none => false) 0x0103
    if y.scaleRec = 0 then return (Scale.unit y.form, none, false)
    else
      let b ← s.scaleRecord j y
      need (u8 b 0x75 == 0 && formOfFormat (u8 b 0x4F) == y.form) 0x0113
      return ({ form := y.form, scale := w32 b 0x40, rscale := w32 b 0x44, record := y.scaleRec }, none, false)
  else return (Scale.unit y.form, none, false)

/-- The checks of a PRODUCT in turn, and the product that issues. -/
def State.checkProduct (s : State) (x : Next) : Except Half ProdIssue := do
  let b := x.raw
  let j := x.job
  x.check 64 []
  let f ← readProdFields b
  let accum := f.kind == .weightGrad
  need (u16 b 8 != 0xFFFF && u16 b 0xA != 0xFFFF && u16 b 0xC != 0xFFFF) 0x0103
  let a ← s.operand j x.ref (u16 b 8)
  let w ← s.operand j x.ref (u16 b 0xA)
  let y ← s.operand j x.ref (u16 b 0xC)
  let pro ← s.operandOpt j x.ref (u16 b 0xE)
  let sat ← s.operandOpt j x.ref (u16 b 0x36)
  need (a.form.isCode && w.form.isCode && a.layout != .rows && w.layout != .rows && y.layout != .rows) 0x0103
  let sa ← s.readScale j.desc a
  let sw ← s.readScale j.desc w
  let float := sa.form.isFloat
  let chain ← readStages accum float (f.settleForm == .fp32) ((List.range 8).map fun i => u16 b (0x1C + 2 * i))
    ((List.range 6).map fun i => u16 b (0x10 + 2 * i))
  let sides ← s.readSides x 0x10 (sideCount chain) (sideCount chain)
  let binds := if x.ref.body.isSome && f.batch ≠ 1 then (j.roster.map (·.bindings)).getD [] else []
  sparseOk f a w y
  need (pairOk f.mode sa.form sw.form) 0x0110
  zeroPointsOk f sa.form sw.form a w
  need (destOk f float chain y) 0x0103
  need (bindingsOk binds a w y (pro.toList ++ sat.toList ++ sides)) 0x0123
  let plan ← productDims f.kind binds a w y
  (chainRoles chain).zip sides |>.forM fun r => sideOk plan.p plan.n r.1.2 r.2
  match pro with
  | some d => do
    need (d.form == .plane && d.layout == .tiles) 0x0103
    need (d.rows == a.rows && d.cols == a.cols) 0x0108
  | none => pure ()
  match sat with
  | some d => do
    need (!(d.sparse && d.form.isCode)) 0x0115
    need (d.form == .plane && d.layout == .tiles) 0x0103
    need (d.rows == y.rows && d.cols == y.cols) 0x0108
  | none => pure ()
  needIf (chain.contains .rotate) (plan.n % 64 == 0) 0x0110
  extOk y
  needIf (f.comp || f.cand) (accum && y.sparse && y.maskRec != 0) 0x0103
  need ((a :: w :: y :: pro.toList ++ sat.toList ++ sides).all Desc.tilesOk) 0x0208
  needIf (!j.desc.exclusive) (!y.far && sat.all (!·.far) && ((chainRoles chain).zip sides).all fun r =>
    !((r.1.2 == .planeOut || r.1.1 == .rowdot && r.1.2 == .table) && r.2.far)) 0x0205
  let (sy, rec_, clamped) ← s.destScale j.desc chain y (BitVec.ofNat 32 x.step)
  let sideScales ← sides.mapM fun d => s.scaleOf j.desc d
  (sides.zip sideScales).forM fun x => zpOk true x.2.form x.1
  zpOk (f.kind == .forward) sy.form y
  let bounds ← s.readBounds j.desc f plan
  let big := largest plan bounds
  needIf (appends binds y) ((if bounds.isEmpty then [plan] else bounds).all fun r => r.p == 1 || r.p == 0) 0x0123
  need (f.mode == .maxplus || f.mode == .minplus || big.k ≤ 2 ^ guardLeft f sa.form sw.form) 0x0111
  let shaped := if x.ref.body.isSome then big else plan
  let df := depthFactor f.mode sa.form sw.form w.sparse
  let shape ← s.chooseShape j.desc f.shape accum f.depth (ceilDiv shaped.k df) shaped.n
  needIf (f.splitK ≥ 2) (f.splitK ≤ (allCores.filter fun c => s.canForm c accum shape f.depth).length) 0x0119
  need (2 * pinSlots f a w ≤ s.slotSplit 0) 0x0109
  let roles := [(OperandRole.streamed, a), (OperandRole.stationary, w)] ++ (pro.toList.map fun d => (OperandRole.prologue, d))
    ++ (sides.zipIdx.map fun (d, i) => (OperandRole.side i, d))
  let p0 : Product :=
    { kind := f.kind, mode := f.mode, dual := f.dual, shape := shape, depth := f.depth, splitK := f.splitK, repro := f.repro
      compact := f.compact, comp := f.comp, cand := f.cand, candStride := f.candStride, settleForm := f.settleForm
      prologue := if a.zpMode = 2 then .zp else f.prologue, proK := f.proK, pin := f.pin, aSrc := f.aSrc, aQueue := f.aQueue
      nOuter := f.nOuter, walk := f.walk, l2Log := f.l2Log, batch := f.batch, chain := chain, descA := a, descW := w, descY := y
      descPro := pro, descSat := sat, sides := sides, bounds := bounds, scaleA := sa, scaleW := sw, scaleY := sy
      sideScales := sideScales, sAB := fpMul sa.scale sw.scale
      tokenBlock := if f.aSrc = 2 then 64 else s.tokenBlockOf shape df plan.k sa.form.width, bindings := binds, items := 0
      counter := 0, returned := [], settled := [], groupCores := [], stats := Stats.zero
      chanMax := if y.chanStats then List.replicate y.cols 0 else [], deadline := s.deadlines j.desc.latency roles, zeroed := []
      alts := s.alternates j.desc roles, wrote := false, below := s.belowOf j sy.record (BitVec.ofNat 32 x.step), handles := [], brought := [] }
  let items := f.batch * p0.blocks * p0.strips * p0.parts
  need (items ≤ 262144) 0x0105
  let p : Product := { p0 with items := items, settled := (List.range items).filter p0.noop }
  return { prod := p, record := rec_, clamped := clamped
           aligned := (a :: w :: y :: pro.toList ++ sat.toList ++ sides).all Desc.aligned }

end Sys2Proof.Machine
end

