-- ==== Sys2Proof/Machine/Walk.lean ====
section
/-! DEFINITION. The walk of a PRODUCT over the cores: the tiles that its items need (R116, R117, R119, R124, R131, R136, R281), the
taking of items (R285), the feeding of a QUEUE (R284), and fetches (R249 to R251, R254), with the commands ITEM_TAKE and
PREFETCH_ISSUE. -/

namespace Sys2Proof.Machine

/-! ### Commands at work -/

/-- The product of a command in flight that still works. -/
def State.liveProduct (s : State) (n : Fin 32) (r : CmdRef) : Option (InFlight × Product) :=
  match s.flight n r with
  | none => none
  | some f => if f.ending.isSome || f.doomed then none else f.prod.map fun p => (f, p)

def State.modProduct (s : State) (n : Fin 32) (r : CmdRef) (g : Product → Product) : State :=
  s.modFlight n r fun f => { f with prod := f.prod.map g }

/-- New work of a command may start (R317, R318, R323). -/
def State.mayWork (s : State) (f : InFlight) : Bool :=
  s.ready && s.goesOn (f.nopre || match s.sched.run with | some n => s.shielded n f.ref | none => false)

/-! ### Places of operands (R239, R279, R298) -/

/-- Where a batch item finds a tensor: bytes added to its bases, and its first row and column. -/
structure Place where
  add : Nat
  row : Nat
  col : Nat
deriving DecidableEq, Repr

/-- The entry of list entry `i` of the roster. -/
def State.rosterEntry (s : State) (ro : Roster) (i : Nat) : List Byte := s.near (rosterEntryAddr ro.base (ro.listed.getD i 0)) 64

def State.place (s : State) (j : Job) (p : Product) (d : Desc) (b : Nat) : Place :=
  let stride := d.itemStride * 4096
  match bindingOf p.bindings d, j.roster with
  | some bi, some ro =>
    let e := s.rosterEntry ro (b / bi.heads)
    let h := b % bi.heads
    let slot := (u16 e 8 * bi.heads + h) * stride
    if bi.mode = 3 then { add := 0, row := b / bi.heads, col := h * (d.cols / bi.heads) }
    else if bi.mode = 2 then { add := slot, row := u32 e 0x10, col := 0 }
    else { add := slot, row := 0, col := 0 }
  | _, _ => { add := if d.layout = .rows then 0 else b * stride, row := 0, col := 0 }

/-- A tile and an element of it. -/
structure Spot where
  tile : Nat
  elem : Nat
deriving DecidableEq, Repr

def Desc.spot (d : Desc) (pl : Place) (r c : Nat) : Spot :=
  let r := pl.row + r
  let c := pl.col + c
  { tile := r / 64 * d.across + c / 64, elem := 64 * (r % 64) + c % 64 }

/-- Where the streamed operand of row t at reduction index k is taken. In the accumulator class the tile lies as stored, and its
element is that of the transposed tile (R125). -/
def Product.streamSpot (p : Product) (pl : Place) (t k : Nat) : Spot :=
  let x := if p.accum then p.descA.spot pl k t else p.descA.spot pl t k
  if p.accum then { x with elem := 64 * (x.elem % 64) + x.elem / 64 } else x

/-- The element of the stationary operand in the cell of reduction index k and column j (Table 06-1). -/
def Product.cellAt (p : Product) (k j : Nat) : Nat × Nat := if p.kind = .inputGrad then (j, k) else (k, j)

/-! ### Operands by role -/

/-- The tensor whose index planes a command stages: a sparse stationary operand, or in the accumulator class the sparse W whose gradient it makes
(R115, R119). -/
def Product.indexDesc (p : Product) : Option Desc :=
  if p.descW.sparse then some p.descW else if p.accum && p.descY.sparse then some p.descY else none

def Product.roleDesc (p : Product) : OperandRole → Option Desc
  | .streamed => some p.descA
  | .stationary => some p.descW
  | .index => p.indexDesc
  | .prologue => p.descPro
  | .side i => p.sides[i]?

/-- The operand that a role's tiles belong to: an index plane of a sparse stationary operand goes with it. -/
def Product.operandOf (p : Product) (r : OperandRole) : OperandRole := if r = .index && p.descW.sparse then .stationary else r

/-- How the chain uses its side operands. -/
def Product.sideUses (p : Product) : List (Stage × SideRole) := chainRoles p.chain

/-- A partial table, which is flat (R147). -/
def Product.isFlat (p : Product) : OperandRole → Bool
  | .side i => match p.sideUses[i]? with | some (_, .table) => true | _ => false
  | _ => false

/-- Whether the fetch stage brings the tiles of a role transposed. A prologue plane comes as the operand it serves (DEDUCED, log 40). -/
def Product.turned (p : Product) : OperandRole → Bool
  | .streamed | .prologue => p.aSrc == 1 || (p.aSrc == 2 && p.accum)
  | _ => false

/-- The units in which an operand is fetched: tiles, rows of a row layout, or 16 KiB pieces of a flat table. -/
def Product.unitCount (p : Product) (role : OperandRole) (d : Desc) : Nat :=
  if p.isFlat role then ceilDiv d.span 16384 else if d.layout = .rows then d.rows else d.tileCount

/-- The source of unit `k` of an operand. -/
def Product.unitSrc (p : Product) (role : OperandRole) (d : Desc) (add k : Nat) : Src :=
  if role = .index then d.indexSrc add k
  else if p.isFlat role then
    { far := d.far, addr := d.base + add + 16384 * k, size := Nat.min 16384 (d.span - 16384 * k), form := d.form, transposed := false
      version := none }
  else if d.layout = .rows then
    { far := d.far, addr := d.base + add + k * d.itemStride, size := d.rowBytes, form := d.form, transposed := false, version := none }
  else d.tileSrc add k (p.turned role)

/-- A tile that a task needs: its role, its number and its source. -/
structure Need where
  role : OperandRole
  tile : Nat
  src : Src
deriving DecidableEq, Repr

/-! ### Tiles that a queue brings (R284, R135) -/

/-- The place of a copy from a queue among the tiles of the streamed operand: in the accumulator class, which takes tiles as stored (R125), that of a
transposed one is turned back. -/
def Product.placeOf (p : Product) (y : TileCopy) : Option (Nat × Nat) :=
  if p.accum && y.transposed then y.tokenTile.map fun x => (x.2, x.1) else y.tokenTile

def Product.isAt (p : Product) (tile : Nat) (y : TileCopy) : Bool := p.placeOf y == some (tile / p.descA.across, tile % p.descA.across)

/-- The copy of a tile that a handle has brought to an item, for a restart: its source is read again (R135). -/
def Product.brings (p : Product) (i tile : Nat) : Option TileCopy :=
  ((p.brought.filter fun x => x.1 == i).map (·.2)).flatten.find? (p.isAt tile)

def Product.noteBrought (p : Product) (items : List Nat) (l : List TileCopy) : Product :=
  { p with brought := p.brought ++ items.map fun i => (i, l) }

/-- A streamed tile of a QUEUE comes from the source of its handle's copy. -/
def Product.sourced (p : Product) (i : Nat) (x : Need) : Need :=
  if x.role = .streamed && p.aSrc = 2 then (match p.brings i x.tile with | some y => { x with src := y.src } | none => x) else x

/-- The fetch stage brings the tile: not one that only a queue has still to bring. -/
def Product.fetched (p : Product) (i : Nat) (x : Need) : Bool := !(x.role = .streamed && p.aSrc = 2) || (p.brings i x.tile).isSome

/-- A tile belongs to an operand. -/
def Desc.covers (d : Desc) (bound : Bool) (batch : Nat) (x : Src) : Bool :=
  let inside (far : Bool) (base size : Nat) : Bool := x.far == far && base ≤ x.addr && (bound || x.addr < base + size)
  inside d.far d.base ((batch - 1) * d.itemStride * 4096 + d.tileCount * d.tileSize)
    || (d.sparse && x.form == .plane && inside d.auxFar d.auxBase (1024 * d.tileCount))

/-- Pairs a list of tile rows with a list of tile columns. -/
def grid (rows cols : List Nat) (across : Nat) : List Nat := sortNat ((rows.map fun r => cols.map fun c => r * across + c).flatten)

def Product.needOf (p : Product) (role : OperandRole) (d : Desc) (add k : Nat) : Need :=
  { role := role, tile := k, src := p.unitSrc role d add k }

/-- A tile as a pass reads it. -/
structure Tile where
  tile : Nat
  base : Nat
  mem : Mem
  copy : TileCopy
deriving DecidableEq, Repr

def Tile.byte (t : Tile) (o : Nat) : Byte := t.mem.read (t.base + o)

/-- A copy that a task still holds, its tag valid or not (R254). -/
def State.heldCopy (s : State) (t : Task) (x : Src) : Option (Fin 32 × Fin 64 × TileCopy) :=
  t.held.findSome? fun i => (((s.cores[i.1]).slots[i.2]).tiles.find? fun y => y.src == x).map fun y => (i.1, i.2, y)

/-- The copy of a needed tile, with the core and slot that hold it: for a QUEUE's streamed operand first in the slots that the task was
handed (R284), otherwise by its residency tag (R236); a task at work on a pass, a replay, a settle or its index planes also reads a slot that
it still holds (R254). -/
def State.copyFor (s : State) (c : Fin 32) (p : Product) (t : Task) (x : Need) : Option (Fin 32 × Fin 64 × TileCopy) :=
  let handed :=
    if x.role = .streamed && p.aSrc = 2 then
      t.queued.findSome? fun h =>
        let sl : Slot := (s.cores[handleCore h]).slots[handleSlot h]
        (sl.tiles.find? (p.isAt x.tile)).map fun y => (handleCore h, handleSlot h, y)
    else none
  match handed, if p.fetched t.item x then (s.cores[c]).findCopy x.src else none with
  | some y, _ => some y
  | none, some y => some (c, y.1, y.2)
  | none, none =>
    if t.pass.isSome || t.following.isSome || !t.replay.isEmpty || !t.unfed.isEmpty || t.done || x.role = .index then s.heldCopy t x.src else none

/-- Every tile of a list is resident. -/
def State.needsMet (s : State) (c : Fin 32) (p : Product) (t : Task) (l : List Need) : Bool :=
  l.all fun x => match s.copyFor c p t x with | some (_, _, y) => y.missing.isEmpty | none => false

/-- The tiles of one role among those that a pass needs. -/
def State.tilesOf (s : State) (c : Fin 32) (p : Product) (t : Task) (role : OperandRole) (l : List Need) : List Tile :=
  (l.filter fun x => x.role = role).filterMap fun x =>
    (s.copyFor c p t x).map fun y =>
      let base := 65536 * y.2.1.val + y.2.2.offset
      { tile := x.tile, base := base, mem := (s.cores[y.1]).sb.part base y.2.2.size, copy := y.2.2 }

/-! ### Passes of an item -/

/-- Facets in series in the field of a gang (Table 04-7). -/
def Product.series (p : Product) (gang : List (Fin 4)) : Nat :=
  match p.shape with
  | .deep => gang.length
  | .square => 2
  | _ => 1

/-- Reduction indices that one pass covers (R103, R111, R131). -/
def Product.passDepth (p : Product) (gang : List (Fin 4)) : Nat :=
  if p.accum then p.depth
  else (if p.shape.isSplit then 32 else 64 * p.series gang) * depthFactor p.mode p.scaleA.form p.scaleW.form p.descW.sparse

/-- Reduction length of an item at run time. -/
def Product.kRun (p : Product) (i : Nat) : Nat := (p.boundsOf (p.itemPos i).batch).k

/-- Reduction indices in one tile of the stationary operand. -/
def Product.kTile (p : Product) : Nat := if p.kind = .inputGrad && p.descW.sparse then 128 else 64

def rangeFrom (lo n : Nat) : List Nat := (List.range n).map (lo + ·)

/-- The numbers of the pieces of `size` that `n` indices from `lo` meet. -/
def piecesOf (lo n size : Nat) : List Nat := if n = 0 then [] else rangeFrom (lo / size) ((lo + n - 1) / size + 1 - lo / size)

/-- Columns of an item that its field takes at once: in WIDE 64 for each facet of the gang (R101). First column and count, within the item. -/
def Product.colGroups (p : Product) (gang : List (Fin 4)) (i : Nat) : List (Nat × Nat) :=
  let n := (p.itemCols i).2
  if p.shape = .wide && !p.accum then
    let w := 64 * Nat.max 1 gang.length
    (List.range (ceilDiv n w)).map fun q => (w * q, Nat.min w (n - w * q))
  else [(0, n)]

/-- The pattern word that holds element (r, c) of a sparse tensor, from its index planes in the stage buffer (R115). -/
def patternIn (d : Desc) (idx : List Tile) (r c : Nat) : Nat :=
  let x := d.sparsePos r c
  match idx.find? fun t => t.tile == x.tile with
  | some t => patternAt t.byte x.br x.bc
  | none => 0

/-- The index tiles that tell the passes of an item: those of its part of the tensor. -/
def State.indexNeeds (s : State) (j : Job) (p : Product) (gang : List (Fin 4)) (i : Nat) : List Need :=
  match p.indexDesc with
  | none => []
  | some d =>
    let (lo, n) := p.itemCols i
    let (r0, rn) := p.itemRows i
    let depth := p.passDepth gang
    let k := Nat.min p.planned.k (ceilDiv (p.kRun i) depth * depth)
    let rows := if p.accum then piecesOf r0 rn 64 else if p.kind = .inputGrad then piecesOf lo n 64 else piecesOf 0 k 64
    let cols := if p.kind = .inputGrad then piecesOf 0 k 128 else piecesOf lo n 128
    if p.zeroed.contains (p.operandOf .index) then []
    else (grid rows cols d.across).map (p.needOf .index d (s.place j p d (p.itemPos i).batch).add)

/-- What the index planes tell of a tensor: the block that holds element (r, c) is absent. -/
def State.goneIn (s : State) (j : Job) (p : Product) (c : Fin 32) (t : Task) : Nat → Nat → Bool :=
  match p.indexDesc with
  | none => fun _ _ => false
  | some d =>
    let needs := s.indexNeeds j p t.gang t.item
    let idx := s.tilesOf c p t .index needs
    fun r k => !needs.isEmpty && patternIn d idx r k == 0

/-- R115: the band of block row b and the 64-column strip `st` is absent. -/
def bandAbsent (gone : Nat → Nat → Bool) (b st : Nat) : Bool := (List.range 8).all fun i => gone (8 * b) (64 * st + 8 * i)

/-- The strips of 64 columns that hold columns of an item. -/
def stripsOf (lo n : Nat) : List Nat := piecesOf lo n 64

/-- Columns of one facet in a field, n_c of Table 04-6. -/
def Product.facetCols (p : Product) : Nat := if p.shape = .split4 && !p.accum then 32 else 64

/-- The columns that a pass over `n` columns loads: those of the facets that it reaches, whole. -/
def Product.loadedCols (p : Product) (n : Nat) : Nat := ceilDiv n p.facetCols * p.facetCols

/-- R116: every block of W that meets the given reduction indices and the columns loaded with them is absent. -/
def Product.regionAbsent (p : Product) (gone : Nat → Nat → Bool) (ks : List Nat) (lo n : Nat) : Bool :=
  (sortNat (ks.map (· / 8))).all fun k => (piecesOf lo (p.loadedCols n) 8).all fun j =>
    let (r, c) := p.cellAt (8 * k) (8 * j)
    gone r c

/-- Cuts a list into pieces of `n`. -/
def cutList {α : Type} (n : Nat) : Nat → List α → List (List α)
  | 0, _ => []
  | fuel + 1, l => if l.isEmpty then [] else l.take n :: cutList n fuel (l.drop n)

/-- The stationary rows of pass `x`: those of its depth that the planned operand has (R278). -/
def Product.passRange (p : Product) (depth x : Nat) : List Nat := (rangeFrom (x * depth) depth).filter fun k => k / p.kTile * p.kTile < p.planned.k

/-- The reduction indices of the passes of a chain without compaction, for the columns from `lo` on. -/
def Product.plainPasses (p : Product) (gang : List (Fin 4)) (gone : Nat → Nat → Bool) (i lo n : Nat) : List (List Nat) :=
  let d := p.passDepth gang
  let m := ceilDiv (p.kRun i) d
  ((List.range m).filter fun x => x + 1 = m || !p.descW.sparse || !p.regionAbsent gone (p.passRange d x) lo n).map (p.passRange d)

/-- R117: the bands of the columns that are present, and the passes that take them. DESIGN CHOICE (log 128): one stream serves all strips of a WIDE or
SQUARE field, so its passes take the union of the strips' bands, g being the facets in series. A band beyond an item's run-time K is loaded with the
rest and tags its columns (R278), but an item without tokens to reduce runs no pass (R277). -/
def Product.bandPasses (p : Product) (gang : List (Fin 4)) (gone : Nat → Nat → Bool) (i lo n : Nat) : List (List Nat) :=
  let bands := (List.range (if p.kRun i = 0 then 0 else ceilDiv p.planned.k 8)).filter fun b => (stripsOf lo n).any fun st => !bandAbsent gone b st
  let per := (if p.shape.isSplit then 8 else 16 * p.series gang) * if doubleRate p.mode p.scaleA.form p.scaleW.form then 2 else 1
  (cutList per bands.length bands).map fun l => (l.map fun b => rangeFrom (8 * b) 8).flatten

/-- Row `r` of a unit is streamed: its band is present, or a candidate (R119, R157). -/
def Product.rowStreamed (p : Product) (gone : Nat → Nat → Bool) (step i r : Nat) : Bool :=
  let band := r / 8
  let (lo, n) := p.itemCols i
  !p.descY.sparse || (stripsOf lo n).any (fun st => !bandAbsent gone band st) || (p.cand && p.candStride ≠ 0 && (band + step) % p.candStride = 0)

/-- The rows that an item streams. -/
def Product.itemTokens (p : Product) (gone : Nat → Nat → Bool) (step i : Nat) : List Nat :=
  let (lo, n) := p.itemRows i
  if p.accum then (rangeFrom lo n).filter (p.rowStreamed gone step i) else rangeFrom lo n

/-- R136: the passes of a participant, each of `depth` consecutive tokens. -/
def Product.tokenPasses (p : Product) (i : Nat) : List (List Nat) :=
  let n := ceilDiv (p.kRun i) p.depth
  let part := (p.itemPos i).part
  let lo := part * n / p.parts
  (rangeFrom lo ((part + 1) * n / p.parts - lo)).map (p.passRange p.depth)

/-- The passes of a list of reduction indices over columns: the last one converts. -/
def passPlans (col cols : Nat) (l : List (List Nat)) : List PassPlan :=
  l.zipIdx.map fun x => { ks := x.1, col := col, cols := cols, last := x.2 + 1 == l.length }

/-- The passes of an item on a gang. Columns without a pass to run settle through one that loads nothing (R277, R136, R119). -/
def Product.plansWith (p : Product) (gang : List (Fin 4)) (gone : Nat → Nat → Bool) (step i : Nat) : List PassPlan :=
  let lo := (p.itemCols i).1
  let one (x : Nat × Nat) : List PassPlan :=
    let l :=
      if p.accum then (if (p.itemTokens gone step i).isEmpty then [] else p.tokenPasses i)
      else if p.compact && p.descW.sparse && p.kind = .forward then p.bandPasses gang gone i (lo + x.1) x.2
      else p.plainPasses gang gone i (lo + x.1) x.2
    passPlans x.1 x.2 (if l.isEmpty then [[]] else l)
  ((p.colGroups gang i).map one).flatten

/-- The passes of a task: fixed with its first pass, and known from when the index planes that tell them are resident (R115, R117). -/
def State.passesOf (s : State) (j : Job) (f : InFlight) (p : Product) (c : Fin 32) (t : Task) : Option (List PassPlan) :=
  match t.passes with
  | some l => some l
  | none =>
    if s.needsMet c p t (s.indexNeeds j p t.gang t.item) then some (p.plansWith t.gang (s.goneIn j p c t) f.step t.item) else none

/-- The number of the pass that a task starts next. -/
def Task.nextIndex (t : Task) : Nat := if t.pass.isSome then t.nextPass + 1 else t.nextPass

/-- A task still has a pass to start: another item can take its place on the gang only after its last one (R84, R282). -/
def Task.walking (t : Task) : Bool :=
  !t.done && (!t.replay.isEmpty || !t.unfed.isEmpty ||
    match t.passes with
    | none => true
    | some l => t.nextIndex + boolNat t.following.isSome < l.length)

/-! ### What a pass needs -/

/-- The tiles of the streamed operand and of its prologue plane for given rows and reduction indices. -/
def State.streamNeeds (s : State) (j : Job) (p : Product) (b : Nat) (ts ks : List Nat) : List Need :=
  let tiles (d : Desc) : List Nat :=
    let pl := s.place j p d b
    let rows := sortNat (((if p.accum then ks else ts)).map fun x => (pl.row + x) / 64)
    let cols := sortNat (((if p.accum then ts else ks)).map fun x => (pl.col + x) / 64)
    grid rows cols d.across
  let of_ (role : OperandRole) (d : Desc) : List Need := (tiles d).map (p.needOf role d (s.place j p d b).add)
  of_ .streamed p.descA ++ (match p.descPro with | some d => of_ .prologue d | none => [])

/-- The tiles of the stationary operand for given reduction indices and columns. -/
def State.blockNeeds (s : State) (j : Job) (p : Product) (b : Nat) (js ks : List Nat) : List Need :=
  let d := p.descW
  let add := (s.place j p d b).add
  let (rs, cs) := if p.kind = .inputGrad then (js, ks) else (ks, js)
  let tiles := grid (sortNat (rs.map (· / 64))) (sortNat (cs.map (· / if d.sparse then 128 else 64))) d.across
  tiles.map (p.needOf .stationary d add) ++ if d.sparse then tiles.map (p.needOf .index d add) else []

/-- The tiles of the side operands that the final pass of an item reads (R145). -/
def State.sideNeeds (s : State) (j : Job) (p : Product) (b : Nat) (ts js : List Nat) : List Need :=
  let one (x : (Stage × SideRole) × (Desc × Nat)) : List Need :=
    let d := x.2.1
    let pl := s.place j p d b
    let units : List Nat :=
      match x.1 with
      | (_, .tile) => grid (sortNat (ts.map fun t => (pl.row + t) / 64)) (sortNat (js.map fun c => (pl.col + c) / 64)) d.across
      | (_, .colVector) => if d.layout = .rows then [0] else sortNat (js.map (· / 64))
      | (_, .rowVector) => if d.layout = .rows then ts else sortNat (ts.map fun t => t / 64 * d.across)
      | (.rowdot, .table) => []
      | (_, .table) => sortNat ((ts.map fun t => [4 * t * d.cols / 16384, (4 * (t + 1) * d.cols - 1) / 16384]).flatten)
      | (_, .planeOut) => []
    units.map (p.needOf (.side x.2.2) d pl.add)
  ((p.sideUses.zip p.sides.zipIdx).map one).flatten

/-- The rows that a task streams next: those to replay, those of a pass that a pre-emption cut (R89), or all of its item. -/
def Task.tokensFrom (t : Task) (all : List Nat) : List Nat :=
  if t.pass.isSome then all else if !t.replay.isEmpty then t.replay else if !t.unfed.isEmpty then t.unfed else all

/-- What a pass needs resident; operands that are skipped need nothing (R256). -/
def State.planNeeds (s : State) (j : Job) (p : Product) (t : Task) (q : PassPlan) (ts : List Nat) : List Need :=
  let b := (p.itemPos t.item).batch
  let (lo, _) := p.itemCols t.item
  let js := rangeFrom (lo + q.col) q.cols
  let l := (if q.ks.isEmpty then [] else s.streamNeeds j p b ts (q.ks.filter (· < p.kRun t.item)) ++ s.blockNeeds j p b js q.ks)
    ++ (if p.accum then s.indexNeeds j p t.gang t.item else [])
    ++ if q.last && (p.itemPos t.item).part = 0 then s.sideNeeds j p b (rangeFrom (p.itemRows t.item).1 (p.itemRows t.item).2) js else []
  (l.filter fun x => !p.zeroed.contains (p.operandOf x.role)).map (p.sourced t.item)

/-- What a task needs for the pass that it starts next: where its passes are not known yet, the index planes that tell them. -/
def State.passNeeds (s : State) (j : Job) (f : InFlight) (p : Product) (c : Fin 32) (t : Task) : List Need :=
  match s.passesOf j f p c t with
  | none => s.indexNeeds j p t.gang t.item
  | some l =>
    match l[t.nextIndex]? with
    | none => []
    | some q => s.planNeeds j p t q (t.tokensFrom (p.itemTokens (s.goneIn j p c t) f.step t.item))

/-- Every tile that the passes of a task from its next one on need; of passes not known yet, as if every block were present. -/
def State.laterNeeds (s : State) (j : Job) (f : InFlight) (p : Product) (c : Fin 32) (t : Task) : List Need :=
  let all : Nat → Nat → Bool := fun _ _ => false
  let l := match s.passesOf j f p c t with | some l => l | none => p.plansWith t.gang all f.step t.item
  let ts := p.itemTokens all f.step t.item
  s.indexNeeds j p t.gang t.item ++ ((l.drop t.nextPass).map fun q => s.planNeeds j p t q ts).flatten

/-! ### Taking items (R281, R285) -/

def Product.splitGroup (p : Product) : Nat := if p.shape = .split2 then 8 else if p.shape = .split4 then 16 else 1

/-- Facet of a field of a SPLIT shape. A field of a facet out of service goes to another facet of the core (DEDUCED, log 41). -/
def fieldFacet (up : List (Fin 4)) (p : Product) (field : Nat) : List (Fin 4) :=
  let f := field / (p.splitGroup / 4)
  match up.find? fun x => x.val = f % 4 with
  | some x => [x]
  | none => (up[f % up.length]?).toList

def Task.fresh (r : CmdRef) (item field : Nat) (gang : List (Fin 4)) (queued : List (BitVec 16)) : Task where
  ref := r
  item := item
  gang := gang
  field := field
  passes := none
  nextPass := 0
  pass := none
  following := none
  kept := []
  replay := []
  unfed := []
  replays := 0
  carrySlots := []
  accBase := 0
  accRows := 0
  done := false
  level := 0
  arrived := []
  poison := []
  held := []
  queued := queued
  asked := []

/-- Tasks that a command walks on a gang of a core. -/
def Core.tasksOn (k : Core) (r : CmdRef) (gang : List (Fin 4)) : Nat :=
  (k.tasks.filter fun t => t.ref == r && t.gang == gang && t.walking).length

/-- The gangs that a core can offer to an item (R101, R131). -/
def Product.gangs (p : Product) (up : List (Fin 4)) : List (List (Fin 4)) :=
  if p.accum then
    (if p.depth = 64 then up.map fun f => [f]
    else if p.depth = 128 then (if up.length = 4 then [[0, 1], [2, 3]] else [])
    else if up.length = 4 then [up] else [])
  else
    match p.shape with
    | .solo | .broadcast => up.map fun f => [f]
    | .square => if up.length = 4 then [up] else []
    | .deep | .wide => if up.isEmpty then [] else [up]
    | _ => []

/-- The gang with the fewest tasks of the command (DESIGN CHOICE, log 42). -/
def Core.freeGang (k : Core) (r : CmdRef) (limit : Nat) : List (List (Fin 4)) → Option (List (Fin 4))
  | [] => none
  | g :: rest =>
    match Core.freeGang k r limit rest with
    | some h => if k.tasksOn r g ≤ k.tasksOn r h then some g else some h
    | none => if k.tasksOn r g < limit then some g else none

/-- Items that one gang walks at a time. -/
def Product.gangLimit (p : Product) : Nat := if p.walk = 1 then 2 else 1

/-- No participant of the item's unit has gone to the core (R136). -/
def Product.coreFree (p : Product) (c : Fin 32) (i : Nat) : Bool :=
  p.parts = 1 || p.groupCores.all fun x => x.1 / p.parts ≠ i / p.parts || x.2 ≠ c

/-- The number of the counter's next item that is not settled. -/
def Product.nextItem (p : Product) : Nat → Nat → Nat
  | 0, i => i
  | fuel + 1, i => if i < p.items && p.settled.contains i then Product.nextItem p fuel (i + 1) else i

/-- The item that a take gives, and the product after it: the return list first, then the counter. -/
def Product.take (p : Product) (c : Fin 32) : Option (Nat × Product) :=
  match p.returned.find? fun i => p.coreFree c i && !p.settled.contains i with
  | some i => some (i, { p with returned := p.returned.filter (· ≠ i) })
  | none =>
    let i := p.nextItem (p.items - p.counter) p.counter
    if i < p.items && p.coreFree c i then some (i, { p with counter := i + 1 }) else none

/-- The items that go to a core together: the group of a SPLIT shape from the counter, else one (R281). An item of a QUEUE comes from the return
list alone (R284, R285). -/
def Product.takeGroup (p : Product) (c : Fin 32) : List Nat × Product :=
  let g := p.splitGroup
  if p.aSrc = 2 && !(p.returned.any fun i => p.coreFree c i && !p.settled.contains i) then ([], p)
  else
  match p.take c with
  | none => ([], p)
  | some (i, q) =>
    if g = 1 || p.returned.contains i then ([i], q)
    else
      let hi := Nat.min p.items ((i / g + 1) * g)
      ((rangeFrom i (hi - i)).filter fun x => !p.settled.contains x, { q with counter := hi })

/-- Whether a core has room for items of a command, and the gang for one. -/
def State.roomFor (s : State) (c : Fin 32) (r : CmdRef) (p : Product) : Bool :=
  let k := s.cores[c]
  if p.shape.isSplit then (k.tasks.filter fun t => t.ref == r && t.walking).isEmpty
  else (k.freeGang r p.gangLimit (p.gangs (s.coreFacets c))).isSome

def State.newTask (s : State) (c : Fin 32) (r : CmdRef) (p : Product) (i : Nat) (queued : List (BitVec 16)) : Option Task :=
  let up := s.coreFacets c
  if p.shape.isSplit && !p.accum then
    let field := i % p.splitGroup
    some (Task.fresh r i field (fieldFacet up p field) queued)
  else ((s.cores[c]).freeGang r (p.items + 1) (p.gangs up)).map fun g => Task.fresh r i 0 g queued

def State.addTask (s : State) (n : Fin 32) (c : Fin 32) (p : Product) (t : Task) : State :=
  let s1 := s.modCore c fun k => { k with tasks := k.tasks ++ [t] }
  if p.parts = 1 then s1 else s1.modProduct n t.ref fun p => { p with groupCores := p.groupCores ++ [(t.item, c)] }

/-- Items become tasks of a core. -/
def State.addItems (s : State) (n : Fin 32) (c : Fin 32) (r : CmdRef) (p : Product) (queued : List (BitVec 16)) (l : List Nat) : State :=
  l.foldl (fun s i => match s.newTask c r p i queued with | some t => s.addTask n c p t | none => s) s

/-- The handles that an item of a QUEUE has taken and still has (R284). -/
def Product.handlesOf (p : Product) (i : Nat) : List (BitVec 16) := ((p.handles.find? fun x => x.1 == i).map (·.2)).getD []

def Product.dropHandles (p : Product) (l : List Nat) : Product := { p with handles := p.handles.filter fun x => !l.contains x.1 }

/-- ITEM_TAKE: the core's governing pair takes the next item of a command. -/
def execItemTake (core : Fin 32) (cmd : CmdRef) (s : State) : Host.Outcome State Fault Refusal :=
  match s.running with
  | none => .next s
  | some (n, j) =>
    match s.liveProduct n cmd with
    | none => .next s
    | some (f, p) =>
      if j.ended || !s.mayWork f || !s.canForm core p.accum p.shape p.depth || !s.roomFor core cmd p
          || s.unitHeld .core core.val then .next s
      else
        let (l, q) := p.takeGroup core
        let s1 := s.modProduct n cmd fun _ => q.dropHandles l
        let s2 := s1.modPair (stripeOf core) fun k => { k with itemsTaken := satAddW k.itemsTaken l.length }
        .next (l.foldl (fun s i => s.addItems n core cmd p (p.handlesOf i) [i]) s2)

/-! ### Queues (R253, R284) -/

/-- The command that takes from a queue of a core: the earliest QUEUE-fed PRODUCT at work. -/
def State.queueReader (s : State) (n : Fin 32) (c : Fin 32) (q : Fin 16) : Option (InFlight × Product) :=
  match s.jobs[n] with
  | none => none
  | some j =>
    j.flight.findSome? fun f =>
      match s.liveProduct n f.ref with
      | some (f, p) => if p.aSrc = 2 && p.aQueue = q.val && s.canForm c p.accum p.shape p.depth then some (f, p) else none
      | none => none

/-- The row and columns of tiles that a slot holds. -/
def Slot.tokenTiles (sl : Slot) : List (Nat × Nat) := sl.tiles.filterMap (·.tokenTile)

/-- Items of a token tile: those of its token block, or in the accumulator class every unit. -/
def Product.tileItems (p : Product) (c : Fin 32) (tt : Nat) : List Nat :=
  (List.range p.items).filter fun i =>
    !p.noop i && (if p.accum then p.coreFree c i && (p.itemPos i).part = (p.groupCores.filter fun x => x.1 / p.parts = i / p.parts).length % p.parts
      else (p.itemPos i).block = tt)

/-- Whether a task can still use a tile that a handle brings. -/
def State.wantsTile (s : State) (p : Product) (r : CmdRef) (tt : Nat) (tiles : List (Nat × Nat)) (t : Task) : Bool :=
  t.ref == r && (p.accum || (p.itemPos t.item).block = tt)
    && !(t.queued.any fun h => ((s.cores[handleCore h]).slots[handleSlot h]).tokenTiles.any tiles.contains)

/-- A handle is taken from a queue: the tasks that wait for its tile get it, or the items of its token tile start. -/
def State.takeHandle (s : State) (n : Fin 32) (c : Fin 32) (r : CmdRef) (p : Product) (h : BitVec 16) : State :=
  let sl : Slot := (s.cores[handleCore h]).slots[handleSlot h]
  let tiles := sl.tokenTiles
  let tt := (tiles.head?.map (·.1)).getD 0
  let note (l : List Nat) (s : State) : State := s.modProduct n r fun p => p.noteBrought l (sl.tiles.filter fun y => y.tokenTile.isSome && !y.built)
  if (s.cores[c]).tasks.any (s.wantsTile p r tt tiles) then
    note (((s.cores[c]).tasks.filter (s.wantsTile p r tt tiles)).map (·.item))
      (s.modCore c fun k => { k with tasks := k.tasks.map fun t => if s.wantsTile p r tt tiles t then { t with queued := t.queued ++ [h] } else t })
  else note (p.tileItems c tt) (s.addItems n c r p [h] (p.tileItems c tt))

/-- The consumer of a queue takes the handles that it holds. -/
def State.feedQueue (n : Fin 32) (c : Fin 32) (q : Fin 16) : Nat → State → State
  | 0, s => s
  | fuel + 1, s =>
    match (s.cores[c]).hampers[q], s.queueReader n c q with
    | h :: rest, some (f, p) =>
      if s.mayWork f then
        State.feedQueue n c q fuel ((s.modCore c fun k => { k with hampers := vset k.hampers q rest }).takeHandle n c f.ref p h)
      else s
    | _, _ => s

def State.feedQueues (s : State) (n : Fin 32) (q : Fin 16) : State := allCores.foldl (fun s c => State.feedQueue n c q 64 s) s

/-- The command to which a queue entry belongs (R334): the one that fetched its slot, else the queue's reader. -/
def State.handleOwner (s : State) (n : Fin 32) (c : Fin 32) (q : Fin 16) (h : BitVec 16) : Option CmdRef :=
  match ((s.cores[handleCore h]).slots[handleSlot h]).owners.find? fun r => (s.flight n r).isSome with
  | some r => some r
  | none => (s.queueReader n c q).map (·.1.ref)

def State.countCtrl (s : State) (c : Fin 32) : State :=
  s.modCore c fun k => { k with counters := { k.counters with ctrlParity := satInc k.counters.ctrlParity } }

/-- Removes the first entry that satisfies a test. -/
def dropFirst {α : Type} (p : α → Bool) : List α → List α
  | [] => []
  | x :: r => if p x then r else x :: dropFirst p r

/-! ### Fetches (R236, R249 to R251) -/

/-- The source of one tile of a fetch; of a QUEUE that of the copy which a handle brought (R135). -/
def State.fetchSrc (s : State) (j : Job) (p : Product) (role : OperandRole) (d : Desc) (num : Nat) : Src :=
  let n := p.unitCount role d
  let given := if role = .streamed && p.aSrc = 2 then
      p.brought.findSome? fun x => if (p.itemPos x.1).batch = num / n then p.brings x.1 (num % n) else none
    else none
  match given with
  | some y => y.src
  | none => p.unitSrc role d (s.place j p d (num / n)).add (num % n)

/-- The sources that tasks of a core wait for with their next pass: the feeder takes such a tile as it arrives (R86, R93). -/
def State.feederWants (s : State) (n : Fin 32) (j : Job) (c : Fin 32) : List Src :=
  ((s.cores[c]).tasks.map fun t =>
    match s.liveProduct n t.ref with
    | some (f, p) => if t.following.isSome then [] else (s.passNeeds j f p c t).map (·.src)
    | none => []).flatten

/-- Tiles of a core fetched but not yet read (R250). DEDUCED (log 43): a tile that has arrived and that the next pass of a task waits for counts as
read. -/
def State.unreadOn (s : State) (n : Fin 32) (j : Job) (c : Fin 32) : Nat :=
  let wants := s.feederWants n j c
  ((s.cores[c]).slots.toList.map fun sl =>
    (sl.tiles.filter fun t => (t.valid || t.tokenTile.isSome) && !t.read && !(t.missing.isEmpty && wants.contains t.src)).length).sum

/-- A copy in use again by a command: its slot is no longer free. -/
def Core.reuse (k : Core) (r : CmdRef) (i : Fin 64) : Core :=
  { k with
    slots := vmod k.slots i fun sl => if sl.owners.contains r then sl else { sl with owners := sl.owners ++ [r] }
    hampers := Vector.ofFn fun q => if q.val < 4 then (k.hampers[q]).filter fun h => handleSlot h ≠ i else k.hampers[q] }

/-- The copies of a slot that takes new tiles, one after another from offset 0. -/
def newCopies : Nat → List Src → List TileCopy
  | _, [] => []
  | o, x :: r =>
    { far := x.far, addr := x.addr, size := x.size, form := x.form, transposed := x.transposed, version := x.version, offset := o
      valid := true, missing := beatsOf x.addr x.size, poison := 0, read := false, tokenTile := none, built := false } :: newCopies (o + x.size) r

/-- A slot that is filled anew, for its first owner where it has one: the run of parity errors ends unless its last fill had one (Table 14-3). -/
def Slot.refill (sl : Slot) (owners : List CmdRef) (tiles : List TileCopy) : Slot :=
  { sl with tiles := tiles, hold := 0, owners := owners, fetcher := owners.head?, parityRun := if sl.parityHit then sl.parityRun else none, parityHit := false }

/-- Reads still outstanding no longer fill a slot that is given new tiles. -/
def State.dropFills (s : State) (c : Fin 32) (i : Fin 64) : State :=
  { s with tilePorts := s.tilePorts.map fun p =>
      { p with reqs := p.reqs.map fun q => { q with fills := q.fills.filter fun x => !(x.core == c && x.slot == i) } } }

/-- Takes the oldest free slot of a class, if there is one. -/
def State.takeSlot (s : State) (c : Fin 32) (cls : Fin 16) : Option (Fin 64 × State) :=
  match (s.cores[c]).hampers[cls] with
  | [] => none
  | h :: rest =>
    let i := handleSlot h
    some (i, (s.modCore c fun k => { k with hampers := vset k.hampers cls rest, sb := k.sb.clear (65536 * i.val) 65536 }).dropFills c i)

/-- What one core gets of a fetch: the tiles it lacks go into one operand slot. -/
def State.fetchInto (s : State) (r : CmdRef) (srcs : List Src) (c : Fin 32) : State :=
  let have_ := srcs.filter fun x => ((s.cores[c]).findCopy x).isSome
  let lack := srcs.filter fun x => ((s.cores[c]).findCopy x).isNone
  let s1 := have_.foldl (fun s x =>
    match (s.cores[c]).findCopy x with | some (i, _) => s.modCore c fun k => k.reuse r i | none => s) s
  if lack.isEmpty then s1
  else
    match s1.takeSlot c 0 with
    | none => s1
    | some (i, s2) => s2.modCore c fun k => { k with slots := vmod k.slots i fun sl => sl.refill [r] (newCopies 0 lack) }

/-- Where the data of a source go: every core whose copy has none of its data yet. -/
def State.fillsOf (s : State) (before : State) (x : Src) (targets : List (Fin 32)) : List Fill :=
  targets.filterMap fun c =>
    if ((before.cores[c]).findCopy x).isSome then none
    else ((s.cores[c]).findCopy x).map fun y => { core := c, slot := y.1, offset := y.2.offset }

/-- R250: the depth leaves room for the new tiles on a core. -/
def State.depthAllows (s : State) (n : Fin 32) (j : Job) (srcs : List Src) (c : Fin 32) : Bool :=
  let lack := srcs.filter fun x => ((s.cores[c]).findCopy x).isNone
  lack.isEmpty || s.unreadOn n j c + lack.length ≤ s.depthOf c

/-- A slot is free on every core that needs one, beside those whose copies are used again (R251), and the queue of tiles that are ready has room
(R249). -/
def State.slotsThere (s : State) (srcs : List Src) (targets : List (Fin 32)) : Bool :=
  targets.all fun c =>
    let k := s.cores[c]
    let used := srcs.filterMap fun x => (k.findCopy x).map (·.1)
    srcs.all (fun x => (k.findCopy x).isSome)
      || (k.hampers[(0 : Fin 16)].any fun h => !used.contains (handleSlot h)) && (k.hampers[(4 : Fin 16)]).length < 64

/-- A command has fetches that it has not issued: for items not taken yet, or for passes of its tasks. -/
def State.fetchesLeft (s : State) (j : Job) (f : InFlight) (p : Product) : Bool :=
  (p.aSrc ≠ 2 && p.nextItem (p.items - p.counter) p.counter < p.items)
    || allCores.any fun c => (s.cores[c]).tasks.any fun t =>
      t.ref == f.ref && ((s.laterNeeds j f p c t).any fun x => p.fetched t.item x && (s.copyFor c p t x).isNone)

/-- A MOVE into slots, which is a fetch (R243), has tiles whose reads it has not issued. -/
def InFlight.movesLeft (f : InFlight) : Bool :=
  match f.mv with
  | some mv => f.ending.isNone && f.faulted.isNone && mv.src.isSome && mv.idx.isNone && boolNat (!mv.taken.isEmpty) < mv.todo.length
  | none => false

/-- R249: every fetch of an earlier command has been issued. -/
def State.inOrder (s : State) (n : Fin 32) (j : Job) (r : CmdRef) : Bool :=
  (j.flight.takeWhile fun f => !(f.ref == r)).all fun f =>
    !f.movesLeft && match s.liveProduct n f.ref with | some (f, p) => !s.fetchesLeft j f p | none => true

/-- What a command does not fetch: an operand that is skipped (R256), and tiles of a QUEUE that no handle has brought yet to a task of a target (R135,
R284). -/
def State.notFetched (s : State) (r : CmdRef) (p : Product) (role : OperandRole) (tiles : List Nat) (targets : List (Fin 32)) : Bool :=
  let given (t : Task) (k : Nat) : Bool :=
    k / p.descA.tileCount = (p.itemPos t.item).batch && (p.brings t.item (k % p.descA.tileCount)).isSome
  p.zeroed.contains (p.operandOf role)
    || (role = .streamed && p.aSrc = 2 && !(targets.any fun c => (s.cores[c]).tasks.any fun t => t.ref == r && tiles.all (given t)))

/-- A slot whose tiles have all arrived is handed on: side operands by queue 5, others by queue 4 (Table 10-5). -/
def State.slotReady (s : State) (n : Fin 32) (c : Fin 32) (i : Fin 64) : State :=
  let sl : Slot := (s.cores[c]).slots[i]
  if !s.cores[c].inService || sl.owners.isEmpty || sl.tiles.isEmpty || !(sl.tiles.all fun t => t.missing.isEmpty) then s
  else
    let side := sl.owners.any fun r => match s.liveProduct n r with
      | some (_, p) => sl.tiles.all fun t => p.sides.any fun d => d.covers (bindingOf p.bindings d).isSome p.batch t.src
      | none => false
    let fetched := sl.owners.any fun r => (s.liveProduct n r).isSome
    let q : Fin 16 := if side then 5 else 4
    let h := s.handleOf c i
    s.modCore c fun k => if fetched && !(k.hampers[q]).contains h then { k with hampers := vmod k.hampers q (· ++ [h]) } else k

/-- The fetch itself, multicast to the targets. The requests of a row are never split in two (R241, R242). -/
def State.fetchTiles (s : State) (n : Fin 32) (r : CmdRef) (rows : Bool) (srcs : List Src) (targets : List (Fin 32)) : State :=
  let s1 := targets.foldl (fun s c => s.fetchInto r srcs c) s
  srcs.foldl (fun s' x =>
    let fills := s1.fillsOf s x targets
    if fills.isEmpty then s' else s'.extFetch (if rows then 0 else splitUnit x.addr x.size) (.cmd n r) x.far x.addr x.size fills) s1

/-- PREFETCH_ISSUE: one fetch of tiles of an operand of a command into one operand-class slot of each target core. `tiles` are
numbered through the batch: batch item times the operand's tiles, plus the tile. -/
def execPrefetchIssue (cmd : CmdRef) (operand : OperandRole) (tiles : List Nat) (cores : BitVec 32) (s : State) :
    Host.Outcome State Fault Refusal :=
  match s.running with
  | none => .next s
  | some (n, j) =>
    match s.liveProduct n cmd with
    | none => .next s
    | some (f, p) =>
      match p.roleDesc operand with
      | none => .next s
      | some d =>
        let targets := allCores.filter fun c => cores.getLsbD c.val
        let srcs := (sortNat tiles).map (s.fetchSrc j p operand d)
        let fits := (srcs.map (·.size)).sum ≤ 65536 && tiles.all fun k => k < p.batch * p.unitCount operand d
        if j.ended || !s.mayWork f || s.notFetched cmd p operand tiles targets || tiles.isEmpty || !fits || targets.isEmpty || !(targets.all fun c => s.cores[c].inService)
            || s.unitHeld .seqPair s.leadIx then .next s
        else if !s.inOrder n j cmd || !(targets.all (s.depthAllows n j srcs)) || !s.slotsThere srcs targets then .next s
        else
          match srcs.find? fun x => !j.desc.mayRead x.far x.addr x.size with
          | some x => .next (s.windowFault n cmd (j.desc.missRead x.far x.addr x.size))
          | none => .next (s.fetchTiles n cmd (d.layout == .rows) srcs targets)

/-! ### Parity of the stage buffer (R257, R331, R334, Table 14-3) -/

/-- A retired slot: event 0x0313, and with fewer than 4 slots of its class the core's facets are fenced; the cause that
their records give is open (log 2). -/
def State.retireSlot (s : State) (c : Fin 32) (i : Fin 64) (f : Option InFlight) : State :=
  let h := s.handleOf c i
  let cls := s.slotClass i.val
  let s1 := s.modCore c fun k =>
    { k with slots := vmod k.slots i fun sl => { sl with retired := true, tiles := [] }
             hampers := k.hampers.map fun q => q.filter (· ≠ h) }
  let s2 := s1.leaveService (s1.report 0x0313 false .none .core c.val (planOf f) (labelOf f) 0)
  let left := ((List.finRange 64).filter fun x => s2.slotClass x.val = cls && !((s2.cores[c]).slots[x]).retired).length
  if left < 4 then ({ s2 with fresh := s2.fresh + 1 } : State).fenceCore c f ((Config.freeWord s2.fresh).toNat % 4) else s2

/-- Fetches the copies of a slot again: a new fill (Table 14-3). -/
def State.refetch (s : State) (n : Fin 32) (c : Fin 32) (i : Fin 64) : State :=
  let sl : Slot := (s.cores[c]).slots[i]
  let r := (sl.owners.head?.or sl.fetcher).getD ⟨0, none⟩
  let l := sl.tiles.filter (·.valid)
  let s1 := (s.dropFills c i).modCore c fun k =>
    { k with
      sb := l.foldl (fun m t => m.clear (65536 * i.val + t.offset) t.size) k.sb
      slots := vmod k.slots i fun sl =>
        { sl with parityHit := false
                  tiles := sl.tiles.map fun t => if t.valid then { t with missing := beatsOf t.addr t.size, poison := 0 } else t } }
  l.foldl (fun s t => s.extFetch (if t.size = t.form.tileBytes then splitUnit t.addr t.size else 0) (.cmd n r) t.far t.addr t.size [{ core := c, slot := i, offset := t.offset }]) s1

/-- A stage-buffer parity error at a word of a slot that a command reads (R257). -/
def State.slotParity (s : State) (n : Fin 32) (c : Fin 32) (i : Fin 64) (f : Option InFlight) (word : Nat) : State :=
  let sl : Slot := (s.cores[c]).slots[i]
  let run := if sl.parityHit then (match sl.parityRun with | some x => x | none => (word, 1)) else runNext sl.parityRun word
  let s1 := s.modCore c fun k =>
    { k with
      counters := { k.counters with sbParity := satInc k.counters.sbParity }
      slots := vmod k.slots i fun sl => { sl with parityRun := some run, parityHit := true } }
  let covers (t : TileCopy) : Bool := t.offset < 8 * word + 8 && 8 * word < t.offset + t.size
  let s2 :=
    if sl.tiles.any fun t => t.valid && covers t then (s1.unitEvent 0x020A .core c.val f 0).refetch n c i
    else
      s1.modCore c fun k => { k with slots := vmod k.slots i fun sl =>
        { sl with tiles := sl.tiles.map fun t =>
            if covers t then
              { t with poison := (List.range 8).foldl (fun m o =>
                  let x := 8 * word + o
                  if t.offset ≤ x && x < t.offset + t.size then m ||| rowMask (byteRows t.form t.size (x - t.offset)) else m) t.poison }
            else t } }
  if run.2 ≥ 3 && !sl.retired then s2.retireSlot c i f else s2

/-- A parity error in a residency tag: the tag becomes invalid and the slot is released (R334). -/
def State.tagParity (s : State) (c : Fin 32) (i : Fin 64) : State :=
  let s1 := (s.countCtrl c).modCore c fun k => { k with slots := vmod k.slots i fun sl =>
    { sl with tiles := sl.tiles.map fun t => { t with valid := false }, owners := if sl.hold = 0 then [] else sl.owners } }
  if ((s.cores[c]).slots[i]).hold = 0 then s1.freeSlot c i else s1

end Sys2Proof.Machine
end

