-- ==== Sys2Proof/Machine/Mover.lean ====
section
/-! DEFINITION. The movers: MOVE (R243 to R245, R288), GATHER (R246, R247), SCATTER_ADD (R248, R193), the passing of handles
through queues (R252 to R255), and the command HAMPER_HANDLE_ARRIVE. -/

namespace Sys2Proof.Machine

/-! ### Writes of a command -/

/-- Writes in order until one lies outside the job's RW windows: its address, where one did (R234, R287). -/
def State.settleWrites (n : Fin 32) (r : CmdRef) : List (Bool × Nat × List Byte) → State → State × Option Nat
  | [], s => (s, none)
  | (far, a, b) :: rest, s =>
    if ((s.jobs[n]).map fun j => j.desc.mayWrite far a b.length).getD false then
      State.settleWrites n r rest (s.jobWrite (.cmd n r) far (s.settles n r) a b [])
    else (s, (s.jobs[n]).map fun j => j.desc.missWrite far a b.length)

/-- An event that a command records once. -/
def State.eventOnce (s : State) (n : Fin 32) (r : CmdRef) (code : Half) (uk : UnitKind) (ui : Nat) : State :=
  match s.flight n r with
  | none => s
  | some f =>
    if f.events.contains code then s
    else (s.modFlight n r fun f => { f with events := f.events ++ [code] }).cmdEvent code uk ui f 0

/-! ### Pieces of work -/

/-- A range that a piece of work reads; `unit` splits its requests (R241). -/
structure InRead where
  far : Bool
  addr : Nat
  size : Nat
  unit : Nat
deriving DecidableEq, Repr

def nearRead (a n : Nat) : InRead := { far := false, addr := a, size := n, unit := 0 }

/-- A write of a piece: `bad` are its poisoned beats, and `tokens` the list entries whose output it holds, in a roster body (R306). -/
structure OutWrite where
  far : Bool
  addr : Nat
  bytes : List Byte
  bad : List Nat
  tokens : List Nat
  unit : Nat
deriving DecidableEq, Repr

/-- The job's windows take the write. -/
def OutWrite.fits (w : OutWrite) (j : JobDesc) : Bool := j.mayWrite w.far w.addr w.bytes.length

def OutWrite.missAt (w : OutWrite) (j : JobDesc) : Nat := j.missWrite w.far w.addr w.bytes.length

/-- The writes of a piece in order, until one lies outside the windows: its address, where one did (R234, R287). A write that is for some list entries
ends those instead (R306). -/
def State.outWrites (n : Fin 32) (f : InFlight) : List OutWrite → State → State × Option Nat
  | [], s => (s, none)
  | w :: rest, s =>
    match s.jobs[n] with
    | none => (s, none)
    | some j =>
      if w.fits j.desc then State.outWrites n f rest (s.extWriteBy w.unit (.cmd n f.ref) w.far f.op.settles w.addr w.bytes w.bad)
      else if w.tokens.isEmpty then (s, some (w.missAt j.desc))
      else State.outWrites n f rest (s.refuseFor n f (w.missAt j.desc) w.tokens)

def outWrite (w : Bool × Nat × List Byte) : OutWrite := { far := w.1, addr := w.2.1, bytes := w.2.2, bad := [], tokens := [], unit := 0 }

/-- What a piece of work gives once its reads are there: what the command has then done, pieces that come before the rest, its writes, the stages of
writes that follow them, its events, and the sequences that end: those of result rows by their rows (R258), those of retire by their entries (R301), with
the addresses of tokens that lie outside the windows. -/
structure PieceOut where
  plan : WorkPlan
  more : List Piece
  writes : List OutWrite
  stages : List (List (Bool × Nat × List Byte))
  events : List Half
  ends : List (Nat × Half)
  retired : List (Nat × Half)
  refused : List Nat

def PieceOut.of (p : WorkPlan) (w : List OutWrite) : PieceOut :=
  { plan := p, more := [], writes := w, stages := [], events := [], ends := [], retired := [], refused := [] }

inductive PieceEnd
  | done (o : PieceOut)
  | fault (code : Half) (scope : Scope)

/-- Joins ranges that follow one another. -/
def joinRanges : List (Nat × Nat) → List (Nat × Nat)
  | [] => []
  | x :: r =>
    match joinRanges r with
    | y :: rest => if x.1 + x.2 = y.1 then (x.1, x.2 + y.2) :: rest else x :: y :: rest
    | [] => [x]

/-! ### Tiles (R244, R257) -/

/-- A copy that has all its data, at an offset of a slot. -/
def copyOf (x : Src) (o : Nat) (poison : DWord) (valid : Bool) (tt : Option (Nat × Nat)) : TileCopy where
  far := x.far
  addr := x.addr
  size := x.size
  form := x.form
  transposed := x.transposed
  version := x.version
  offset := o
  valid := valid
  missing := []
  poison := poison
  read := false
  tokenTile := tt
  built := false

/-- Rows of a copy that the poisoned beats of its source poison. -/
def ExtMem.copyPoison (e : ExtMem) (t : TileCopy) : DWord :=
  ((beatsOf t.addr t.size).filter fun b => (e.poison t.far).contains b).foldl
    (fun m b => m ||| badRows t (512 * b - t.addr) (Nat.min (512 * (b + 1) - t.addr) t.size)) 0

/-- The bytes of a tile as a mover delivers them, and its poison mask: transposed where the source says so. -/
def State.tileImage (s : State) (x : Src) : List Byte × DWord :=
  let t := copyOf x 0 0 false none
  let cells := (s.ext.mem x.far).part x.addr x.size
  let m := if x.transposed then cells.foldl (fun m c => putByte t m 0 (c.1 - x.addr) c.2) [] else cells.map fun c => (c.1 - x.addr, c.2)
  (m.bytes 0 x.size, s.ext.copyPoison t)

/-- The beats of a tile written to an address that hold a byte of a poisoned row. -/
def badBeats (f : Form) (a size : Nat) (poison : DWord) : List Nat :=
  if poison = 0 then []
  else
    (beatsOf a size).filter fun b =>
      let lo := 512 * b - a
      (List.range (Nat.min (512 * (b + 1) - a) size - lo)).any fun i => (byteRows f size (lo + i)).any fun r => poison.getLsbD (r % 64)

/-- The read of a tile of a tensor. -/
def Desc.tileRead (d : Desc) (k : Nat) : InRead :=
  { far := d.far, addr := d.tileAddr 0 k, size := d.tileSize, unit := splitUnit (d.tileAddr 0 k) d.tileSize }

/-- The write of tile `k` of a tensor by a mover; in a roster body one for each 4 KiB, which a window takes or refuses whole. -/
def Desc.tileWrites (d : Desc) (body : Bool) (k : Nat) (img : List Byte × DWord) : List OutWrite :=
  let a := d.tileAddr 0 k
  let size := img.1.length
  let bad := badBeats d.form a size img.2
  let unit := splitUnit a size
  if !body then [{ far := d.far, addr := a, bytes := img.1, bad := bad, tokens := [], unit := unit }]
  else
    (rangeFrom (a / 4096) ((a + size + 4095) / 4096 - a / 4096)).map fun q =>
      let lo := Nat.max a (4096 * q) - a
      let hi := Nat.min (a + size) (4096 * (q + 1)) - a
      let rows := sortNat ((rangeFrom lo (hi - lo)).map (byteRows d.form size)).flatten
      { far := d.far, addr := a + lo, bytes := (img.1.drop lo).take (hi - lo), bad := bad, tokens := rows.map (64 * (k / d.across) + ·), unit := unit }

/-- Number of the tile that tile `k` of a source becomes in a transposed destination. -/
def turnTile (src dst : Desc) (k : Nat) : Nat := k % src.across * dst.across + k / src.across

/-- The tiles of piece `k` of a MOVE, source and destination number each: a tile, or of the in-place transpose the pair (i, j), (j, i) of number
i · n + j (R245). -/
def moveGroup (src dst : Desc) (turned inPlace : Bool) (k : Nat) : List (Nat × Nat) :=
  let n := src.across
  if inPlace then
    (if k / n = k % n then [(k, k)] else [(k, k % n * n + k / n), (k % n * n + k / n, k)])
  else [(k, if turned then turnTile src dst k else k)]

def moveReads (src : Desc) (l : List (Nat × Nat)) : List InRead := l.map fun x => src.tileRead x.1

/-- A tile in the slot that a mover has read it into. -/
def State.slotImage (s : State) (c : Fin 32) (i : Fin 64) : List Byte × DWord :=
  match ((s.cores[c]).slots[i]).tiles with
  | t :: _ => ((s.cores[c]).sb.bytes (65536 * i.val + t.offset) t.size, t.poison)
  | [] => ([], 0)

/-- A piece of a MOVE: each tile is written where it belongs; those of an in-place transpose come from their slots. -/
def State.moveRun (s : State) (body : Bool) (w : Work) (src dst : Desc) (turned inPlace : Bool) (k : Nat) : PieceEnd :=
  let l := moveGroup src dst turned inPlace k
  let imgs := if inPlace then (l.zip w.slots).map fun x => (x.1.2, s.slotImage x.2.1 x.2.2) else l.map fun x => (x.2, s.tileImage (src.tileSrc 0 x.1 turned))
  .done (PieceOut.of w.plan (imgs.map fun x => dst.tileWrites body x.1 x.2).flatten)

/-! ### Rows of a table (R242, R246) -/

/-- Table row of an index, where it is one. -/
def rowOfIndex (d : Desc) (v : Int) : Option Nat := if 0 ≤ v && v < d.rows then some v.toNat else none

def badIndex (d : Desc) (v : Int) : Bool := v ≠ -1 && (rowOfIndex d v).isNone

/-- Tile (tt, tc) of the result of a GATHER. A bad index gives a zero row with its poison bit. -/
def State.gatherTile (s : State) (d : Desc) (idx : List Int) (tt tc : Nat) : List Byte × DWord :=
  let w := 8 * d.form.width
  let m := s.ext.mem d.far
  let row (r : Nat) : List Byte × Bool :=
    match (idx[64 * tt + r]?) with
    | none => (List.replicate w 0, false)
    | some v =>
      match rowOfIndex d v with
      | some x =>
        let a := d.base + x * d.itemStride + tc * w
        (m.bytes a w, s.ext.poisoned d.far a w)
      | none => (List.replicate w 0, badIndex d v)
  let rows := (List.range 64).map row
  ((rows.map (·.1)).flatten, rowMask ((rows.zipIdx.filter fun x => x.1.2).map (·.2)))

/-- The distinct rows of a list, in the order in which they first appear. -/
def distinctRows (d : Desc) : List Int → List Nat
  | [] => []
  | v :: r =>
    match rowOfIndex d v with
    | some x => x :: (distinctRows d r).filter (· ≠ x)
    | none => distinctRows d r

def Desc.rowRead (d : Desc) (x : Nat) : InRead := { far := d.far, addr := d.base + x * d.itemStride, size := d.rowBytes, unit := 0 }

/-- The rows that token tile `tt` needs and no token tile before it: each distinct row is read once in a command (R247). Which participant reads a row
shows at no port. -/
def gatherReads (d : Desc) (idx : List Int) (tt : Nat) : List InRead :=
  let before := distinctRows d (idx.take (64 * tt))
  ((distinctRows d ((idx.drop (64 * tt)).take 64)).filter fun x => !before.contains x).map d.rowRead

/-- A token tile of a GATHER into a tensor. -/
def State.gatherRun (s : State) (body : Bool) (w : Work) (src dst : Desc) (idx : List Int) (tt : Nat) : PieceEnd :=
  .done (PieceOut.of w.plan ((List.range dst.across).map fun tc => dst.tileWrites body (tt * dst.across + tc) (s.gatherTile src idx tt tc)).flatten)

/-! ### System-class slots (R245, R247) -/

/-- A command takes two system-class slots on each of some cores, all or none. -/
def State.takeTables (s : State) (n : Fin 32) (r : CmdRef) (cores : List (Fin 32)) : Option State :=
  if cores.isEmpty || !(cores.all fun c => 2 ≤ ((s.cores[c]).hampers[(3 : Fin 16)]).length) then none
  else
    some ((cores ++ cores).foldl (fun s c =>
      match s.takeSlot c 3 with
      | none => s
      | some (i, s1) =>
        (s1.modCore c fun k => { k with slots := vmod k.slots i fun sl => sl.refill [r] [] }).modFlight n r fun f =>
          { f with work := f.work.map fun w => { w with slots := w.slots ++ [(c, i)] } }) s)

/-- The plan works through system-class slots: the table of a list command (R247), the two tiles of an in-place transpose (R245). -/
def WorkPlan.usesSlots : WorkPlan → Bool
  | .move _ _ _ inPlace => inPlace
  | .gather .. | .scatter .. => true
  | _ => false

/-- Where a command takes its system-class slots: an in-place transpose on the first core that has two, another on as many cores in service as it has
participants (DESIGN CHOICE, log 136: the first in service, but for a queue, whose targets they are). -/
def State.tableCores (s : State) (w : Work) : List (Fin 32) :=
  let up := allCores.filter fun c => s.cores[c].inService
  match w.plan with
  | .move .. => (up.filter fun c => 2 ≤ ((s.cores[c]).hampers[(3 : Fin 16)]).length).take 1
  | _ => if w.cores.all fun c => s.cores[c].inService then w.cores else up.take w.cores.length

/-- A command that works through system-class slots has them: those taken before on cores still in service, or new ones. -/
def State.claimTables (s : State) (n : Fin 32) (f : InFlight) : Option State :=
  match f.work with
  | none => some s
  | some w =>
    let kept := w.slots.filter fun x => s.cores[x.1].inService
    if !w.plan.usesSlots || kept == w.slots && !kept.isEmpty then some s
    else
      let s1 := s.modFlight n f.ref fun f => { f with work := some { w with slots := kept } }
      if kept.isEmpty then s1.takeTables n f.ref (s1.tableCores w) else some s1

/-! ### Movers at work on queues (R243, R253 to R255, R288) -/

/-- The slot of a core that gets a tile of a MOVE: one whose copy of it has a valid tag (R236), else the oldest free one of the class. The flag tells that
the tile is there or on its way already. -/
def State.takeFor (s : State) (c : Fin 32) (cls : Fin 16) (x : Option Src) : Option ((Fin 64 × Bool) × State) :=
  match x.bind (s.cores[c]).findCopy with
  | some (i, _) =>
    some ((i, true), s.modCore c fun k => { k with hampers := Vector.ofFn fun q => if q.val < 4 then (k.hampers[q]).filter fun h => handleSlot h ≠ i else k.hampers[q] })
  | none => (s.takeSlot c cls).map fun y => ((y.1, false), y.2)

/-- The source of entry `k` of a MOVE; a GATHER builds its tiles from rows. -/
def Mover.srcOf (mv : Mover) (d : Desc) (k : Nat) : Option Src := if mv.idx.isSome then none else some (d.tileSrc 0 k mv.turned)

/-- The reads of entry `k`. -/
def Mover.reads (mv : Mover) (d : Desc) (k : Nat) : List InRead :=
  match mv.idx with
  | some idx => gatherReads d idx k
  | none => [d.tileRead k]

/-- The place of entry `k` of a MOVE among the tiles of what it delivers (R244). -/
def Mover.place (mv : Mover) (d : Desc) (k : Nat) : Nat × Nat := if mv.turned then (k % d.across, k / d.across) else (k / d.across, k % d.across)

/-- The copies that a slot gets for entry `k`: of a MOVE one whose data are still to come. -/
def Mover.copies (mv : Mover) (d : Desc) (k : Nat) : List TileCopy :=
  match mv.srcOf d k with
  | none => []
  | some x => [{ copyOf x 0 0 true (some (mv.place d k)) with missing := beatsOf x.addr x.size }]

def State.modMover (s : State) (n : Fin 32) (r : CmdRef) (g : Mover → Mover) : State :=
  s.modFlight n r fun f => { f with mv := f.mv.map g }

/-- The copies of a source on a core belong to this place of its tensor from now on. -/
def Slot.nameTile (sl : Slot) (x : Option Src) (tt : Nat × Nat) : Slot :=
  { sl with tiles := sl.tiles.map fun t => if x = some t.src then { t with tokenTile := some tt } else t }

/-- An entry of a mover takes a slot in one of its targets. A slot that is still held ends the command (R255). -/
def State.takeEntry1 (s : State) (n : Fin 32) (f : InFlight) (mv : Mover) (d : Desc) (k : Nat) (c : Fin 32) : State :=
  match s.takeFor c mv.cls (mv.srcOf d k) with
  | none => s
  | some ((i, there), s1) =>
    if !there && ((s.cores[c]).slots[i]).hold ≠ 0 then s1.failRef n f.ref 0x0209 .cmd .core c.val
    else
      let s2 := if there then s1.modCore c fun k' => { k' with slots := vmod k'.slots i fun sl => sl.nameTile (mv.srcOf d k) (mv.place d k) }
        else s1.modCore c fun k' => { k' with slots := vmod k'.slots i fun sl => { sl.refill [] (mv.copies d k) with fetcher := some f.ref } }
      s2.modMover n f.ref fun m => { m with taken := m.taken ++ [(c, i)] }

/-- The slots that the entry at the head of a mover has taken. -/
def State.takenBy (s : State) (n : Fin 32) (r : CmdRef) : List (Fin 32 × Fin 64) := (((s.flight n r).bind (·.mv)).map (·.taken)).getD []

/-- Where the data of a MOVE go: the slots just taken whose copy has nothing yet. -/
def State.entryFills (s : State) (before : State) (n : Fin 32) (r : CmdRef) (mv : Mover) (d : Desc) (k : Nat) : List Fill :=
  match mv.srcOf d k with
  | none => []
  | some x =>
    ((s.takenBy n r).filter fun y => ((before.cores[y.1]).findCopy x).isNone).map fun y => { core := y.1, slot := y.2, offset := 0 }

/-- An entry of a mover may start on a core: a slot is free where it needs one, and of a MOVE, which is a fetch, the prefetch depth allows its tile (R243,
R250). -/
def State.entryFits (s : State) (n : Fin 32) (j : Job) (mv : Mover) (d : Desc) (k : Nat) (c : Fin 32) : Bool :=
  let there := ((mv.srcOf d k).bind (s.cores[c]).findCopy).isSome
  there || (!((s.cores[c]).hampers[mv.cls]).isEmpty && s.depthAllows n j (mv.srcOf d k).toList c)

/-- An entry of a mover starts: it takes slots in its targets, all or none (R251), and its reads go out. An entry none of whose targets is in service
has nothing to do. -/
def State.moveIn (s : State) (n : Fin 32) (j : Job) (f : InFlight) (mv : Mover) (d : Desc) (k : Nat) (cores : List (Fin 32)) : Option State :=
  match (mv.reads d k).find? fun x => !j.desc.mayRead x.far x.addr x.size with
  | some x => some (s.windowFault n f.ref (j.desc.missRead x.far x.addr x.size))
  | none =>
    let up := cores.filter fun c => s.cores[c].inService
    if up.isEmpty then some (s.modMover n f.ref fun m => { m with todo := m.todo.drop 1 })
    else if !(up.all (s.entryFits n j mv d k)) then none
    else
      let s1 := up.foldl (fun s c => s.takeEntry1 n f mv d k c) s
      let fills := s1.entryFills s n f.ref mv d k
      let l := if (s1.takenBy n f.ref).length < up.length || mv.idx.isNone && fills.isEmpty then [] else mv.reads d k
      some (l.foldl (fun s x => s.extFetch x.unit (.cmd n f.ref) x.far x.addr x.size fills) s1)

/-- Puts tiles into a slot. -/
def State.fillSlot (s : State) (c : Fin 32) (i : Fin 64) (l : List (TileCopy × List Byte)) : State :=
  s.modCore c fun k =>
    { k with
      sb := l.foldl (fun m x => m.writeBytes (65536 * i.val + x.1.offset) x.2) k.sb
      slots := vmod k.slots i fun sl => sl.refill [] (l.map (·.1)) }

/-- The tiles of entry `k` of a GATHER. -/
def State.gatherTiles (s : State) (mv : Mover) (d : Desc) (k : Nat) : List (TileCopy × List Byte) :=
  match mv.idx with
  | none => []
  | some idx =>
    (List.range d.across).map fun tc =>
      let img := s.gatherTile d idx k tc
      let x : Src := { far := d.far, addr := d.base, size := d.form.tileBytes, form := d.form, transposed := false, version := none }
      ({ copyOf x (tc * d.form.tileBytes) img.2 false (some (k, tc)) with built := true }, img.1)

/-- What a command has read, as memory shows it, with the beats that came back unusable (R257, R361). -/
def State.seen (s : State) (f : InFlight) : State :=
  { s with ext := f.bad.foldl (fun e b => e.setPoison b.1 (insertNat b.2 (e.poison b.1))) s.ext }

/-- The entry at the head of a mover has its data: the handles of its slots are pushed to the queue. -/
def State.moveLands (s : State) (n : Fin 32) (f : InFlight) (mv : Mover) (d : Desc) (k : Nat) : State :=
  let l := mv.taken.filter fun x => s.cores[x.1].inService
  let s1 := if mv.idx.isNone then s else l.foldl (fun s' x => s'.fillSlot x.1 x.2 ((s.seen f).gatherTiles mv d k)) s
  let s2 := l.foldl (fun (s : State) x => { s with transit := s.transit ++ [{ core := x.1, queue := mv.queue, handle := s.handleOf x.1 x.2 }] }) s1
  s2.modMover n f.ref fun m => { m with todo := m.todo.drop 1, taken := [] }

/-- Every copy that the entry waits for is whole. -/
def State.entryWhole (s : State) (mv : Mover) : Bool := mv.taken.all fun x => ((s.cores[x.1]).slots[x.2]).tiles.all (·.missing.isEmpty)

/-- The destination tile of tile `k` that a MOVE takes from a queue: the source tiles count in their own tensor's order (R244). -/
def Mover.outTile (mv : Mover) (d : Desc) (k : Nat) : Nat := if mv.turned then k % d.down * d.across + k / d.down else k

/-- The tiles of a slot go to the next destination tiles in order, and the slot goes back. R243: the slot is of the result or the stream class (DEDUCED, log
133: another ends the command as a form that does not fit). -/
def State.moveOut (s : State) (n : Fin 32) (f : InFlight) (mv : Mover) (d : Desc) (c : Fin 32) (h : BitVec 16) : State :=
  let hc := handleCore h
  let hs := handleSlot h
  let k := s.cores[hc]
  let tiles := (k.slots[hs]).tiles.filter (·.tokenTile.isSome)
  let s0 := s.modCore c fun k => { k with hampers := vmod k.hampers mv.queue (·.drop 1) }
  let s1 := s0.modCore hc fun k => { k with slots := vmod k.slots hs fun sl => { sl with tiles := sl.tiles.map fun t => { t with read := true } } }
  let image (t : TileCopy) : List Byte × DWord :=
    let bytes := k.sb.bytes (65536 * hs.val + t.offset) t.size
    if mv.turned then
      ((bytes.zipIdx.foldl (fun m b => putByte { t with transposed := true, offset := 0 } m 0 b.2 b.1) []).bytes 0 t.size,
        if t.poison = 0 then 0 else BitVec.allOnes 64)
    else (bytes, t.poison)
  if (tiles.any fun t => t.form ≠ d.form) || !(handleClass h = 1 || handleClass h = 2) then s1.failRef n f.ref 0x0208 .issue .core hc.val
  else
    let writes := (tiles.zip (mv.todo.map (·.1))).map fun x => d.tileWrites f.ref.body.isSome (mv.outTile d x.2) (image x.1)
    let y := State.outWrites n f writes.flatten s1
    match y.2 with
    | some a => y.1.windowFault n f.ref a
    | none => (y.1.freeHandles [h]).modMover n f.ref fun m => { m with todo := m.todo.drop tiles.length }

/-- The copies of a handle's slot have all their data. -/
def State.handleWhole (s : State) (h : BitVec 16) : Bool := ((s.cores[handleCore h]).slots[handleSlot h]).tiles.all (·.missing.isEmpty)

/-- Whether a request of the command is outstanding. -/
def State.cmdOpen (s : State) (n : Fin 32) (r : CmdRef) : Bool := s.outstanding fun q => q.origin.isCmd n r

/-- A mover's next piece of work, where it can do it: of an entry into slots first its reads, then its handles. -/
def State.moveStep (s : State) (n : Fin 32) (j : Job) (f : InFlight) (mv : Mover) : Option State :=
  match mv.todo, mv.src, mv.dst with
  | (k, cores) :: _, some d, none =>
    if mv.taken.isEmpty then (if s.mayWork f && (mv.idx.isSome || s.inOrder n j f.ref) then (s.claimTables n f).bind fun s1 => s1.moveIn n j f mv d k cores else none)
    else if s.cmdOpen n f.ref || !s.entryWhole mv then none
    else some (s.moveLands n f mv d k)
  | _ :: _, none, some d =>
    if !s.mayWork f then none
    else (allCores.findSome? fun c => (((s.cores[c]).hampers[mv.queue]).head?.filter s.handleWhole).map fun h => (c, h)).map fun x =>
      s.moveOut n f mv d x.1 x.2
  | _, _, _ => none

/-- A mover goes on while it can, and completes after its last piece. -/
def State.pumpMove (n : Fin 32) (r : CmdRef) : Nat → State → State
  | 0, s => s
  | fuel + 1, s =>
    match s.jobs[n], s.flight n r with
    | some j, some f =>
      match f.mv with
      | none => s
      | some mv =>
        if f.ending.isSome || f.faulted.isSome || j.ended then s
        else if mv.todo.isEmpty then s.completeCmd n r 0x01
        else
          match s.moveStep n j f mv with
          | some s1 => State.pumpMove n r fuel s1
          | none => s
    | _, _ => s

/-- The movers of a job go on, in the order of its plan. -/
def State.pumpMoves (s : State) (n : Fin 32) : State :=
  let l := ((s.jobs[n]).map fun j => j.flight.filterMap fun f => f.mv.map fun m => (f.ref, m.todo.length)).getD []
  l.foldl (fun s x => State.pumpMove n x.1 (2 * x.2 + 2) s) s

/-- The MOVE that takes its tiles from a queue, where one is at work. -/
def State.outMover (s : State) (n : Fin 32) (q : Fin 16) : Option InFlight :=
  ((s.jobs[n]).map (·.flight)).getD [] |>.find? fun f => f.ending.isNone && match f.mv with | some m => m.dst.isSome && m.queue == q | none => false

/-- Parity errors in the slot of a handle as a MOVE reads it (R257). -/
def State.outParity (s : State) (n : Fin 32) (q : Fin 16) (h : BitVec 16) (words : List Nat) : State :=
  match s.outMover n q with
  | none => s
  | some f => words.foldl (fun s w => s.slotParity n (handleCore h) (handleSlot h) (some f) w) s

/-- HAMPER_HANDLE_ARRIVE: a full queue stalls the handle. A parity error of the entry ends the command that it belongs to; one in its slot is met as a MOVE
reads it. -/
def execHamperHandleArrive (core : Fin 32) (queue : Fin 16) (parity : HandleParity) (s : State) : Host.Outcome State Fault Refusal :=
  match s.running, s.transit.find? fun t => t.core == core && t.queue == queue with
  | some (n, _), some t =>
    if !s.ready || (s.cores[core]).hampers[queue].length ≥ 64 then .next s
    else
      let mine (x : Transit) : Bool := x == t
      let s1 : State := { s with transit := dropFirst mine s.transit }
      let s2 := s1.modCore core fun k => { k with hampers := vmod k.hampers queue (· ++ [t.handle]) }
      if parity.entry then
        let s3 := s2.countCtrl core
        match s3.handleOwner n core queue t.handle with
        | some r => .next (s3.failRef n r 0x0306 .step .core core.val)
        | none => .next s3
      else .next (((State.feedQueue n core queue 64 s2).outParity n queue t.handle parity.words).pumpMoves n)
  | _, _ => .next s

/-! ### Fields (Table 11-14) -/

structure MoveFields where
  turned : Bool
  srcQueue : Bool
  dstQueue : Bool
  queue : Fin 16
  cls : Fin 16
  multicast : Bool
  cores : List (Fin 32)
  first : Nat
  tiles : Nat
  parts : Nat
deriving DecidableEq, Repr

/-- The fields of Table 11-14 and the rules among them. Cores out of service are no targets. -/
def State.moveFields (s : State) (x : Next) : Except Half MoveFields := do
  let b := x.raw
  let c := u16 b 0x0E
  x.check 0x28 [(0x1D, 3)]
  need (bits c 15 10 == 0) 0x0102
  let q := bits c 6 3
  let cores := allCores.filter fun k => (u32 b 0x10).testBit k.val && s.cores[k].inService
  need (!(bit c 1 && bit c 2) && (u16 b 8 == 0xFFFF) == bit c 1 && (u16 b 0xA == 0xFFFF) == bit c 2) 0x0103
  need ((!(bit c 1 || bit c 2) || 8 ≤ q) && bits c 8 7 % 2 == 0 && u8 b 0x1C ≤ 32 && (!bit c 2 || !cores.isEmpty)) 0x0103
  return { turned := bit c 0, srcQueue := bit c 1, dstQueue := bit c 2, queue := ⟨q % 16, by omega⟩, cls := ⟨bits c 8 7 % 16, by omega⟩
           multicast := bit c 9, cores := cores, first := u32 b 0x14, tiles := u32 b 0x18, parts := u8 b 0x1C }

/-! ### MOVE -/

/-- What a MOVE does at issue. -/
inductive MovePlan
  | noop
  | tiles (src dst : Desc) (turned inPlace : Bool) (pieces : List Nat)
  | queue (mv : Mover)
deriving DecidableEq, Repr

/-- R244. -/
def turnOk (d : Desc) : Bool := d.layout == .tiles && d.form != .wide

/-- The tiles that a MOVE takes of a tensor. -/
def MoveFields.range (f : MoveFields) (d : Desc) : Nat × Nat := (f.first, if f.tiles = 0 then d.tileCount - f.first else f.tiles)

/-- The pairs of an in-place transpose in ascending order of i, then j, with the diagonal tiles, each by i · n + j (R245). -/
def turnPairs (n : Nat) : List Nat := ((List.range n).map fun i => (rangeFrom i (n - i)).map fun j => i * n + j).flatten

/-- A MOVE between two tensors. -/
def MoveFields.plan (f : MoveFields) (src dst : Desc) : Except Half MovePlan := do
  let (k, n) := f.range src
  need (src.layout != .rows && dst.layout == src.layout && dst.form == src.form && (!f.turned || turnOk src)) 0x0208
  need (if f.turned then src.rows == dst.cols && src.cols == dst.rows else src.rows == dst.rows && src.cols == dst.cols) 0x0108
  need (k < src.tileCount && k + n ≤ src.tileCount) 0x0103
  let b := src.tileSize
  let dest : Nat × Nat := if f.turned then (dst.base, dst.tileCount * b) else (dst.base + k * b, n * b)
  if src.far == dst.far && src.base == dst.base && !f.turned then return .noop
  else if src.far == dst.far && src.base == dst.base && src.rows == src.cols && n == src.tileCount then
    return .tiles src dst true true (turnPairs src.across)
  else
    need (!(src.far == dst.far && rangesMeet (src.base + k * b, n * b) dest)) 0x0204
    return .tiles src dst f.turned false (rangeFrom k n)

/-- The checks of a MOVE. -/
def State.checkMove (s : State) (x : Next) : Except Half (MovePlan × Bool) := do
  let f ← s.moveFields x
  need (u16 x.raw 0xC == 0xFFFF) 0x0103
  let src ← s.operandOpt x.job x.ref (u16 x.raw 8)
  let dst ← s.operandOpt x.job x.ref (u16 x.raw 0xA)
  need ((src.toList ++ dst.toList).all Desc.tilesOk) 0x0208
  needIf (!x.job.desc.exclusive) (dst.all fun d => !d.far) 0x0205
  (src.toList ++ dst.toList).forM notGradPlane
  let even := (src.toList ++ dst.toList).all Desc.aligned
  match src, dst with
  | some a, some b => return (← f.plan a b, even)
  | some a, none =>
    let (k, n) := f.range a
    need (a.layout != .rows && (!f.turned || turnOk a) && a.tileSize ≤ 65536) 0x0208
    need (k < a.tileCount && k + n ≤ a.tileCount) 0x0103
    let targets (i : Nat) : List (Fin 32) := if f.multicast then f.cores else (f.cores[i % f.cores.length]?).toList
    return (.queue { src := some a, dst := none, turned := f.turned, queue := f.queue, cls := f.cls
                     idx := none, todo := (List.range n).map fun i => (k + i, targets i), taken := [] }, even)
  | none, some b =>
    let (k, n) := f.range b
    need (!b.sparse) 0x0115
    need (b.layout == .tiles && (!f.turned || turnOk b)) 0x0208
    need (k < b.tileCount && k + n ≤ b.tileCount) 0x0103
    return (.queue { src := none, dst := some b, turned := f.turned, queue := f.queue, cls := f.cls, idx := none
                     todo := (List.range n).map fun i => (k + i, []), taken := [] }, even)
  | none, none => .error 0x0103

/-- The tier-1 range of a destination (R208). -/
def Desc.nearRange (d : Desc) : List (Nat × Nat) := if d.far then [] else [(d.base, d.span)]

/-- The new home of a relocated object in its descriptor (R237): its tier bit and its base. -/
def State.rehome (s : State) (j : JobDesc) (i : Nat) (dst : Desc) : List (Bool × Nat × List Byte) :=
  let a := j.descTable + 64 * i
  let b := s.near a 8
  [(false, a, setField b 3 1 (u8 b 3 / 2 * 2 + boolNat dst.far)), (false, a + 0x10, leBytes 8 dst.base)]

/-! ### GATHER -/

/-- The index list of a GATHER or SCATTER_ADD: consecutive INT32 words from the base of its descriptor. A poisoned entry stands for a
bad index (DEDUCED, log 51). -/
def State.indexList (s : State) (x : Next) : Except Half (List Int) := do
  need (u16 x.raw 0xC != 0xFFFF) 0x0103
  let d ← s.operand x.job x.ref (u16 x.raw 0xC)
  let ca := u64 x.raw 0x20
  notGradPlane d
  need (ca % 4 == 0 && d.base % 4 == 0) 0x0103
  let n ← if ca = 0 then pure d.rows else (s.record x.job.desc ca 4 0x0107).map fun b => u32 b 0
  need (d.form == .int32 && !d.sparse && n ≤ 16384) 0x0208
  need (n == 0 || x.job.desc.mayRead d.far d.base (4 * n)) 0x0201
  let m := (s.ext.mem d.far).part d.base (4 * n)
  return (List.range n).map fun t =>
    let a := d.base + 4 * t
    if s.ext.poisoned d.far a 4 then -2 else (BitVec.ofNat 32 (m.field a 4)).toInt

/-- What a GATHER does at issue: its table and list, and its destination or its mover. -/
structure GatherPlan where
  src : Desc
  idx : List Int
  dst : Option Desc
  mv : Mover
deriving DecidableEq, Repr

def State.checkGather (s : State) (x : Next) : Except Half (GatherPlan × Bool) := do
  let f ← s.moveFields x
  need (!f.turned && !f.srcQueue) 0x0103
  let src ← s.operand x.job x.ref (u16 x.raw 8)
  let dst ← s.operandOpt x.job x.ref (u16 x.raw 0xA)
  let idx ← s.indexList x
  (src :: dst.toList).forM notGradPlane
  need (dst.all fun d => !d.sparse) 0x0115
  need src.rowsOk 0x0208
  needIf (!x.job.desc.exclusive) (dst.all fun d => !d.far) 0x0205
  let tokenTiles := ceilDiv idx.length 64
  match dst with
  | some d => do
    need (d.layout == .tiles && d.form == src.form && d.tilesOk) 0x0208
    need (d.cols == src.cols && tokenTiles ≤ d.down) 0x0108
  | none => need (src.across * src.form.tileBytes ≤ 65536) 0x0208
  let k := if f.parts = 0 then f.cores.length else f.parts
  needIf f.dstQueue (k ≤ f.cores.length) 0x0103
  let mv : Mover :=
    { src := some src, dst := none, turned := false, queue := f.queue, cls := f.cls, idx := some idx
      todo := (List.range tokenTiles).map fun t => (t, (f.cores[t % k]?).toList), taken := [] }
  return ({ src := src, idx := idx, dst := dst, mv := mv }, dst.all Desc.aligned)

/-! ### SCATTER_ADD -/

structure ScatterPlan where
  src : Desc
  dst : Desc
  idx : List Int
deriving DecidableEq, Repr

def State.checkScatter (s : State) (x : Next) : Except Half (ScatterPlan × Bool) := do
  let f ← s.moveFields x
  need (!f.turned && !f.srcQueue && !f.dstQueue) 0x0103
  let src ← s.operand x.job x.ref (u16 x.raw 8)
  let dst ← s.operand x.job x.ref (u16 x.raw 0xA)
  let idx ← s.indexList x
  notGradPlane src
  notGradPlane dst
  need (src.layout == .tiles && src.form == .fp32 && src.tilesOk && dst.rowsOk && (dst.form == .fp32 || dst.form == .wide)) 0x0208
  need (src.cols == dst.cols && idx.length ≤ src.rows) 0x0108
  needIf (!x.job.desc.exclusive) (!dst.far) 0x0205
  need (idx.all fun v => !badIndex dst v) 0x0207
  return ({ src := src, dst := dst, idx := idx }, src.aligned)

/-- A token row of the source of a SCATTER_ADD: its values, and which of them are poisoned. -/
def State.sourceRow (s : State) (d : Desc) (t : Nat) : List (Word × Bool) :=
  (List.range d.cols).map fun c =>
    let a := d.tileAddr 0 (t / 64 * d.across + c / 64) + 256 * (t % 64) + 4 * (c % 64)
    (BitVec.ofNat 32 ((s.ext.mem d.far).field a 4), s.ext.poisoned d.far a 4)

/-- The touched bit of a row: the address of its word and its place. The spec names no field that gives a SCATTER_ADD the bitmap, so
where it lies is a free value (log 2, log 52). -/
def touchedAt (j : JobDesc) (d : Desc) (x : Nat) : Nat × Nat := (4096 * Config.touchedBase (j.descTable + 64 * d.index) + 8 * (x / 64), x % 64)

/-- R248: what becomes of row x of the table, from the source rows that name it. -/
def scatterRow (f : Form) (first : Bool) (old : Nat) (s : Word) : Nat :=
  if first then s.toNat
  else if f = .fp32 then (fpAdd (BitVec.ofNat 32 old) s).toNat
  else (accBits (accAdd (accOf (BitVec.ofNat 64 old)) s)).toNat

/-- The token rows that name a row of the table. -/
def namedBy (idx : List Int) (x : Nat) : List Nat := (idx.zipIdx.filter fun v => v.1 = (x : Int)).map (·.2)

/-- The reads of a distinct row: the source rows that name it, the row itself (R248: "one read and one write"), and in a lazy table its touched word. -/
def scatterReads (j : JobDesc) (src dst : Desc) (idx : List Int) (x : Nat) : List InRead :=
  let rows := (namedBy idx x).map fun t => (List.range src.across).map fun tc =>
    { far := src.far, addr := src.tileAddr 0 (t / 64 * src.across + tc) + 256 * (t % 64), size := 256, unit := 0 : InRead }
  rows.flatten ++ [dst.rowRead x] ++ if dst.isLazy then [nearRead (touchedAt j dst x).1 8] else []

/-- One distinct row. Poison of a source row or of the old table row goes on with the written bytes (R257; DEDUCED, log 112). -/
def State.scatterRun (s : State) (j : JobDesc) (p : WorkPlan) (src dst : Desc) (idx : List Int) (x : Nat) : PieceEnd :=
  let d := dst
  let w := d.form.width / 8
  let a := d.base + x * d.itemStride
  let tokens := namedBy idx x
  let rows := tokens.map (s.sourceRow src)
  let tw := touchedAt j d x
  let word := s.ext.near.field tw.1 8
  let first := d.isLazy && !word.testBit tw.2
  let sum (c : Nat) : Word × Bool :=
    let l := rows.map fun y => y.getD c (0, false)
    (match l with | [] => 0 | y :: rest => rest.foldl (fun v z => fpAdd v z.1) y.1, l.any (·.2))
  let m := (s.ext.mem d.far).part a d.rowBytes
  let cells := (List.range d.cols).map fun c =>
    let v := sum c
    let ca := a + w * c
    (leBytes w (scatterRow d.form first (m.field ca w) v.1), if v.2 || (!first && s.ext.poisoned d.far ca w) then [ca / 512] else [])
  let row : OutWrite := { far := d.far, addr := a, bytes := (cells.map (·.1)).flatten, bad := (cells.map (·.2)).flatten, tokens := tokens, unit := 0 }
  .done (PieceOut.of p (row :: if first then [outWrite (false, tw.1, leBytes 8 (word + 2 ^ tw.2))] else []))

end Sys2Proof.Machine
end

