-- ==== Sys2Proof/Machine/Pass.lean ====
section
/-! DEFINITION. A pass (R78 to R103, R109, R112 to R114, R123, R140): the exact column sums and tags of its result rows, the choice of
the next pass on a core (R100, R152), and the command PASS_ISSUE. -/

namespace Sys2Proof.Machine

/-! ### Tiles in hand -/

/-- An element of a dense tile in hand, and whether its row is poisoned; none where the operand is skipped. -/
def tileElem (l : List Tile) (f : Form) (x : Spot) : Option (Nat × Bool) :=
  (l.find? fun t => t.tile == x.tile).map fun t => (elemAt f 4096 t.byte x.elem, t.copy.rowBad (x.elem / 64))

/-! ### The streamed operand (R123, R140, R62) -/

/-- The prologue on a carrier; `b` is the bit of the plane. -/
def Product.apply (p : Product) (c : BitVec 14) (b : Bool) : BitVec 14 :=
  match p.prologue with
  | .none | .zp => c
  | .plane => if p.proK = 1 then (if b then carrierNegate c else c) else if b then c else 0
  | .shift => carrierShift c p.proK
  | .leaky => if b then c else carrierShift c (-p.proK)

/-- The feeder subtracts the zero point: in PROLOGUE mode, and in CORRECTION mode where the cells do not form products (R62, R53: "the subtraction
is applied first"; DEDUCED, log 130). -/
def Product.subtracts (p : Product) : Bool := p.prologue == .zp || (p.mode != .mac && p.scaleA.form.isInt && p.descA.zpMode == 1)

/-- The carrier that the feeder presents for row t and reduction index k, and whether it is poisoned. A skipped operand gives zero
carriers (R256). -/
def Product.stream (p : Product) (pl plPro : Place) (a pro : List Tile) (t k : Nat) : BitVec 14 × Bool :=
  match tileElem a p.descA.form (p.streamSpot pl t k) with
  | none => (0, false)
  | some (code, bad) =>
    let c := if p.subtracts then expandZp p.scaleA.form code p.descA.zp else expand p.scaleA.form code
    match p.descPro with
    | none => (p.apply c false, bad)
    | some _ =>
      match tileElem pro .plane (p.streamSpot plPro t k) with
      | none => (p.apply c false, bad)
      | some (b, bad2) => (p.apply c (b = 1), bad || bad2)

/-! ### The stationary operand (R83, R112, R113) -/

/-- The carrier of the cell for reduction index k and column j: none where the cell forms no product (an absent block or a position
outside the pattern). -/
def Product.cell (p : Product) (w idx : List Tile) (k j : Nat) : Option (BitVec 14) :=
  let (r, c) := p.cellAt k j
  let d := p.descW
  if d.sparse then
    let x := d.sparsePos r c
    match w.find? (fun t => t.tile == x.tile), idx.find? (fun t => t.tile == x.tile) with
    | some v, some i =>
      let pat := patternAt i.byte x.br x.bc
      if pat.testBit (8 * x.r + x.c) then
        some (expand p.scaleW.form (elemAt d.form (d.layout.perBlock * 128) v.byte
          (d.layout.perBlock * (16 * x.br + x.bc) + valueNo d.layout.perCol pat x.r x.c)))
      else none
    | _, _ => none
  else (tileElem w d.form (d.spot { add := 0, row := 0, col := 0 } r c)).map fun x => expand p.scaleW.form x.1

/-- A poisoned row of the loaded block (R258). -/
def Product.blockBad (p : Product) (w idx : List Tile) (ks js : List Nat) : Bool :=
  let rows := if p.kind = .inputGrad then js else ks
  (w ++ idx).any fun t => rows.any fun r => t.tile / p.descW.across == r / 64 && t.copy.rowBad (r % 64)

/-- R109: every present block that the pass loads has a valid pattern. -/
def Product.patternsOk (p : Product) (idx : List Tile) (ks js : List Nat) : Bool :=
  (sortNat (ks.map (· / 8))).all fun k => (sortNat (js.map (· / 8))).all fun j =>
    let (r, c) := p.cellAt (8 * k) (8 * j)
    let x := p.descW.sparsePos r c
    match idx.find? fun t => t.tile == x.tile with
    | none => true
    | some i => let pat := patternAt i.byte x.br x.bc; pat = 0 || patternOk p.descW.layout.perCol pat

/-! ### Column sums (Table 04-1, R52, R54) -/

/-- The value that enters the top edge at the start of a chain. -/
def modeStart : Mode → BitVec 80
  | .maxplus => BitVec.ofInt 80 (-(2 ^ 79))
  | .minplus => BitVec.ofInt 80 (2 ^ 79 - 1)
  | _ => 0

/-- One cell's outgoing sum. -/
def cellSum (m : Mode) (sum : BitVec 80) (a w : Int) : BitVec 80 :=
  match m with
  | .mac => sum + BitVec.ofInt 80 (a * w)
  | .sqdist => sum + BitVec.ofInt 80 ((a - w) * (a - w))
  | .l1dist => sum + BitVec.ofInt 80 (a - w).natAbs
  | .maxplus => if sum.toInt < a + w then BitVec.ofInt 80 (a + w) else sum
  | .minplus => if a + w < sum.toInt then BitVec.ofInt 80 (a + w) else sum

def infTag (neg : Bool) : Tag := if neg then tagNegInf else tagPosInf

/-- The tag of one product (R54); in the other modes that of the term (DEDUCED, log 44). -/
def cellTag (m : Mode) (a w : BitVec 14) : Tag :=
  if carrierIsNaN a || carrierIsNaN w then tagNaN
  else if !carrierIsInf a && !carrierIsInf w then tagFinite
  else
    match m with
    | .mac => if carrierField a = 0 || carrierField w = 0 then tagNaN else infTag (carrierNeg a != carrierNeg w)
    | .sqdist | .l1dist => if carrierIsInf a && carrierIsInf w && carrierNeg a == carrierNeg w then tagNaN else tagPosInf
    | _ =>
      if carrierIsInf a && carrierIsInf w then (if carrierNeg a == carrierNeg w then infTag (carrierNeg a) else tagNaN)
      else infTag (if carrierIsInf a then carrierNeg a else carrierNeg w)

/-- An activation as presented: its carrier, whether its reduction index lies inside the bounds, and its poison. -/
structure Act where
  c : BitVec 14
  inside : Bool
  bad : Bool
deriving DecidableEq, Repr

/-- Sum and tag of a column: the carriers of its cells against a token's activations. Outside the bounds a MAC sees a zero activation
and another mode a masked row; a special stationary carrier tags its column all the same (R80, R278). -/
def columnSum (m : Mode) (ea ew : Nat) : List Act → List (Option (BitVec 14)) → BitVec 80 × Tag → BitVec 80 × Tag
  | a :: as, some w :: ws, (sum, tag) =>
    let sum' := if a.inside then cellSum m sum (carrierInt a.c ea) (carrierInt w ew) else sum
    let tag' := if a.inside || carrierSpecial w then tagJoin tag (cellTag m a.c w) else tag
    columnSum m ea ew as ws (sum', tag')
  | _ :: as, none :: ws, x => columnSum m ea ew as ws x
  | _, _, x => x

/-! ### Carry rows (Table 04-3) -/

/-- Carry rows of one token: one for each 64 columns of the field. -/
def Product.carryCols (p : Product) : Nat := ceilDiv p.width 64

/-- Result-class slots that the carry rows of an item take. -/
def Product.carrySlotsFor (p : Product) (i : Nat) : Nat := ceilDiv ((p.itemRows i).2 * p.carryCols) 64

/-- Address in the stage buffer of the carry row of row `x` of an item and columns 64q and on. -/
def Task.carryAddr (t : Task) (p : Product) (x q : Nat) : Nat :=
  let i := x * p.carryCols + q
  65536 * (t.carrySlots.getD (i / 64) 0).val + 1024 * (i % 64)

/-- The sums and tags of a carry row. -/
def readCarry (m : Mem) (a : Nat) : List (BitVec 80 × Tag) :=
  let part := m.part a 656
  (List.range 64).map fun j =>
    (BitVec.ofNat 80 (leNat ((List.range 10).map fun i => part.read (a + 10 * j + i))),
      BitVec.ofNat 2 ((part.read (a + 0x280 + j / 4)).toNat / 4 ^ (j % 4)))

/-- The bytes of a carry row. -/
def carryBytes (l : List (BitVec 80 × Tag)) : List Byte :=
  let at_ (j : Nat) : BitVec 80 × Tag := l.getD j (0, 0)
  ((List.range 64).map fun j => leBytes 10 (at_ j).1.toNat).flatten
    ++ (List.range 16).map fun i => BitVec.ofNat 8 (((List.range 4).map fun j => (at_ (4 * i + j)).2.toNat * 4 ^ j).sum)

/-- What enters the top edge for row `x` of an item in pass `k`: its carry rows, or the start value for the first pass of the columns (R90, R116). -/
def State.carryIn (s : State) (c : Fin 32) (p : Product) (t : Task) (k : Nat) (q : PassPlan) (x : Nat) : List (BitVec 80 × Tag) :=
  let earlier := match t.passes with | some l => (l.take k).any fun y => y.col == q.col | none => false
  if p.accum || !earlier then List.replicate q.cols (modeStart p.mode, tagFinite)
  else
    ((List.range (ceilDiv q.cols 64)).map fun i => readCarry (s.cores[c]).sb (t.carryAddr p x (q.col / 64 + i))).flatten.take q.cols

/-! ### The check column (R55, R85, R95, R96, R114) -/

/-- Facet rows in series that a pass goes through. -/
def Product.stages (p : Product) (gang : List (Fin 4)) : Nat := if p.accum then Nat.max 1 gang.length else Nat.max 1 (p.series gang)

/-- Reduction indices that the physical rows of one facet cover. -/
def Product.stageDepth (p : Product) : Nat := 64 * depthFactor p.mode p.scaleA.form p.scaleW.form p.descW.sparse

/-- The facet of a stage and a column block of a gang (Table 04-7). -/
def Product.stageFacet (p : Product) (gang : List (Fin 4)) (stage block : Nat) : Fin 4 :=
  (gang[stage + p.stages gang * block]?).getD (gang.head?.getD 0)

/-- The physical row that covers the x-th reduction index of a facet, and which of the row's logical rows that is: one in dense single rate, two in
double rate (R78), and in a sparse block lanes 2p and 2p + 1 of the group, in double rate of both slots (R111, R114). -/
def Product.checkPlace (p : Product) (x : Nat) : Nat × Nat :=
  match doubleRate p.mode p.scaleA.form p.scaleW.form, p.descW.sparse with
  | false, false => (x, 0)
  | true, false => (x / 2, x % 2)
  | false, true => (4 * (x / 8) + x % 8 / 2, x % 2)
  | true, true => (4 * (x / 16) + x % 8 / 2, 2 * (x % 16 / 8) + x % 2)

/-- Sums along the columns of a loaded block, for each reduction index: R85. -/
def sumColumns (n : Nat) (g : BitVec 14 → Int) (cols : List (List (Option (BitVec 14)))) : List Int :=
  cols.foldl (fun acc col => List.zipWith (fun a x => a + match x with | some w => g w | none => 0) acc col) (List.replicate n 0)

/-- The check cells of the part of a block that one facet holds: its columns, each over n reduction indices. -/
def Product.checkCells (p : Product) (field ew n : Nat) (cols : List (List (Option (BitVec 14)))) : List CheckCell :=
  let sums := (sumColumns n (carrierInt · ew) cols).zipIdx.map fun x => (p.checkPlace x.2, x.1)
  let squares := if p.mode = .sqdist then sumColumns n (fun w => carrierInt w ew * carrierInt w ew) cols else []
  (sortNat (sums.map fun x => x.1.1)).map fun r =>
    { field := field, row := r, sums := (sums.filter fun x => x.1.1 = r).map (·.2)
      squares := ((squares.zipIdx.filter fun x => (p.checkPlace x.2).1 = r).map (·.1)) }

/-- The weight sum and the sum of squares that the check column holds for the x-th reduction index of a facet. -/
def Product.checkSums (p : Product) (cells : List CheckCell) (field x : Nat) : Int × Int :=
  let (r, i) := p.checkPlace x
  match cells.find? fun k => k.field == field && k.row == r with
  | some k => (k.sums.getD i 0, k.squares.getD i 0)
  | none => (0, 0)

/-- The contributions of the rows of a facet to its check column (Table 04-6). -/
def Product.checkTerms (p : Product) (cells : List CheckCell) (field ea : Nat) (acts : List Act) : Int :=
  (acts.zipIdx.map fun y =>
    let a := carrierInt y.1.c ea
    let (s, q) := p.checkSums cells field y.2
    if !y.1.inside then 0
    else
      match p.mode with
      | .mac => a * s
      | .sqdist => (p.facetCols : Int) * (a * a) - 2 * a * s + q
      | _ => 0).sum

/-- The check column works in this mode (Table 04-6). -/
def Mode.isChecked : Mode → Bool
  | .mac | .sqdist => true
  | _ => false

def sumOf86 (l : List (BitVec 80 × Tag)) : BitVec 86 := l.foldl (fun b x => b + BitVec.ofInt 86 x.1.toInt) 0

/-- The columns of block b among those of a field. -/
def Product.blockOf {α : Type} (p : Product) (b : Nat) (l : List α) : List α := (l.drop (p.facetCols * b)).take p.facetCols

/-! ### The result rows of a pass -/

/-- The carriers that a pass loads: for each column of the facets that it reaches, those of its reduction indices. A column beyond the tensor holds
zeros, and so does a skipped operand (R256). -/
def State.loadedCells (s : State) (p : Product) (c : Fin 32) (t : Task) (q : PassPlan) (needs : List Need) : List (List (Option (BitVec 14))) :=
  let lo := (p.itemCols t.item).1 + q.col
  let w := s.tilesOf c p t .stationary needs
  let idx := s.tilesOf c p t .index needs
  let skipped := p.zeroed.contains .stationary
  (rangeFrom lo (p.loadedCols q.cols)).map fun jj => q.ks.map fun k =>
    if skipped then some 0
    else
      match p.cell w idx k jj with
      | some x => some x
      | none => if p.descW.sparse then none else some 0

/-- The stationary block of a pass is loaded: each facet that holds a part of it forms the sums of its check column (R85, R114), and under dual pass
the partner of a single facet, which has the same block, too (R99). -/
def State.loadBlock (s : State) (c : Fin 32) (p : Product) (t : Task) (cells : List (List (Option (BitVec 14)))) : State :=
  let ew := if p.mode = .mac then p.scaleW.form.stepExp else p.scaleA.form.stepExp + p.lsbShift
  let d := p.stageDepth
  let put (s : State) (f : Fin 4) (l : List CheckCell) : State :=
    s.modFacet (facetIx c f) fun g => { g with check := (g.check.filter fun k => k.field ≠ t.field) ++ l }
  let parts := (List.range (p.stages t.gang)).map fun i => (List.range (ceilDiv cells.length p.facetCols)).map fun b => (i, b)
  parts.flatten.foldl (fun s x =>
    let cols := (p.blockOf x.2 cells).map fun col => (col.drop (d * x.1)).take d
    let l := p.checkCells t.field ew ((cols.head?.getD []).length) cols
    let s1 := put s (p.stageFacet t.gang x.1 x.2) l
    match s.passFacets c p t.gang, t.gang with
    | [_, g], [_] => put s1 g l
    | _, _ => s1) s

/-- One facet row of a gang: the sums that leave it, and the comparisons of its facets. -/
def State.runStage (s : State) (c : Fin 32) (p : Product) (t : Task) (ea ew stage : Nat) (acts : List Act) (cells : List (List (Option (BitVec 14))))
    (ins : List (BitVec 80 × Tag)) : List (BitVec 80 × Tag) × List RowCheck :=
  let outs := (cells.zip ins).map fun x => columnSum p.mode ea ew acts x.1 x.2
  let check (b : Nat) : RowCheck :=
    let f := p.stageFacet t.gang stage b
    { facet := f, data := sumOf86 (p.blockOf b outs)
      check := sumOf86 (p.blockOf b ins) + BitVec.ofInt 86 (p.checkTerms (s.facets[facetIx c f]).check t.field ea acts) }
  (outs, if p.mode.isChecked then (List.range (ceilDiv cells.length p.facetCols)).map check else [])

/-- The facet rows of a gang from `stage` on, one after another. -/
def State.runStages (s : State) (c : Fin 32) (p : Product) (t : Task) (ea ew : Nat) :
    Nat → Nat → List Act → List (List (Option (BitVec 14))) → List (BitVec 80 × Tag) → List (BitVec 80 × Tag) × List RowCheck
  | 0, _, _, _, ins => (ins, [])
  | fuel + 1, stage, acts, cells, ins =>
    let d := p.stageDepth
    let x := s.runStage c p t ea ew stage (acts.take d) (cells.map (·.take d)) ins
    let y := State.runStages s c p t ea ew fuel (stage + 1) (acts.drop d) (cells.map (·.drop d)) x.1
    (y.1, x.2 ++ y.2)

/-- The result rows of pass `k` of a task for rows `ts`, its block being loaded. -/
def State.passRows (s : State) (j : Job) (p : Product) (c : Fin 32) (t : Task) (needs : List Need) (k : Nat) (q : PassPlan) (ts : List Nat)
    (cells : List (List (Option (BitVec 14)))) : List ResultRow :=
  let b := (p.itemPos t.item).batch
  let pl := s.place j p p.descA b
  let plPro := match p.descPro with | some d => s.place j p d b | none => pl
  let js := rangeFrom ((p.itemCols t.item).1 + q.col) q.cols
  let a := s.tilesOf c p t .streamed needs
  let pro := s.tilesOf c p t .prologue needs
  let kr := p.kRun t.item
  let ea := p.scaleA.form.stepExp + p.lsbShift
  let ew := if p.mode = .mac then p.scaleW.form.stepExp else ea
  let bad := p.blockBad (s.tilesOf c p t .stationary needs) (s.tilesOf c p t .index needs) q.ks js
  let first := (p.itemRows t.item).1
  let row (tok : Nat) : ResultRow :=
    let acts := q.ks.map fun k =>
      if k < kr then let x := p.stream pl plPro a pro tok k; ({ c := x.1, inside := true, bad := x.2 } : Act)
      else { c := 0, inside := false, bad := false }
    let starts := s.carryIn c p t k q (tok - first)
    let ins := starts ++ List.replicate (cells.length - starts.length) (modeStart p.mode, tagFinite)
    let res := s.runStages c p t ea ew (p.stages t.gang) 0 acts cells ins
    { token := tok, col := q.col, sums := (res.1.take q.cols).map (·.1), tags := (res.1.take q.cols).map (·.2)
      poisoned := bad || acts.any (·.bad) || t.poison.contains tok, checks := res.2 }
  if q.ks.isEmpty then
    (if p.accum then []
    else ts.map fun tok =>
      { token := tok, col := q.col, sums := List.replicate q.cols 0, tags := List.replicate q.cols 0, poisoned := t.poison.contains tok, checks := [] })
  else ts.map row

/-- Pass `k` of a task runs for rows `ts`: the state with its block loaded, and its result rows. -/
def State.runPass (s : State) (j : Job) (p : Product) (c : Fin 32) (t : Task) (k : Nat) (q : PassPlan) (ts : List Nat) : State × List ResultRow :=
  let needs := s.planNeeds j p t q ts
  let cells := s.loadedCells p c t q needs
  let s1 := if q.ks.isEmpty then s else s.loadBlock c p t cells
  (s1, s1.passRows j p c t needs k q ts cells)

/-! ### The next pass of a core (R99, R100, R152) -/

/-- Facets of a core on which a pass is in flight, with the command. -/
def State.passesOn (s : State) (n : Fin 32) (c : Fin 32) : List (CmdRef × List (Fin 4)) :=
  ((s.cores[c]).tasks.filter fun t => t.pass.isSome).map fun t =>
    (t.ref, match s.liveProduct n t.ref with | some (_, p) => s.passFacets c p t.gang | none => t.gang)

/-- Tile rows of a unit's range in its facet's accumulator memory, which no other unit holds (R127). DESIGN CHOICE (log 153): the lowest. -/
def State.accFree (s : State) (c : Fin 32) (t : Task) (rows : Nat) : Option Nat :=
  let held := (s.cores[c]).tasks.filter fun u => u.accFacet = t.accFacet && u.accRows > 0
  ((List.range (512 - rows + 1)).find? fun b => held.all fun u => b + rows ≤ u.accBase || u.accBase + u.accRows ≤ b)

/-- The slots and rows that the next pass of a task needs are free. -/
def State.roomForPass (s : State) (j : Job) (f : InFlight) (c : Fin 32) (p : Product) (t : Task) : Bool :=
  if p.accum then t.accRows > 0 || (p.itemRows t.item).2 ≤ 512 && (s.accFree c t (p.itemRows t.item).2).isSome
  else
    !t.carrySlots.isEmpty || (match s.passesOf j f p c t with | some l => l.all (·.last) | none => false)
      || p.carrySlotsFor t.item ≤ ((s.cores[c]).hampers[(1 : Fin 16)]).length

/-- The next pass of a task, where there is one to start: nothing to do remains of the pass before it but its verdict (R84, R132). -/
def State.nextPlan (s : State) (j : Job) (f : InFlight) (c : Fin 32) (p : Product) (t : Task) : Option PassPlan :=
  if t.done || t.following.isSome || (t.pass.isSome && (!t.replay.isEmpty || !t.unfed.isEmpty || (t.pass.map fun q => !q.unfed.isEmpty).getD false)) then none
  else (s.passesOf j f p c t).bind fun l => l[t.nextIndex]?

/-- A core has drained as far as a pass of a command asks: a pass in flight that streams no more is no hindrance, unless the core's shape must change
(R84, R100). -/
def State.drainedFor (s : State) (n : Fin 32) (c : Fin 32) (r : CmdRef) (p : Product) : Bool :=
  let busy := s.passesOn n c
  busy.isEmpty || ((s.cores[c]).shape.toNat = p.shape.code && (p.shape == .solo || busy.all fun y => y.1 == r))

/-- The next pass of a task has its operands, its room and its facets, none of which waits for a polish (R152, R335, R338). -/
def State.passResident (s : State) (j : Job) (c : Fin 32) (f : InFlight) (p : Product) (t : Task) : Bool :=
  (s.nextPlan j f c p t).isSome && s.mayWork f
    && (s.passFacets c p t.gang).all (fun x =>
      let g := s.facets[facetIx c x]
      s.facetUp (facetIx c x) && !g.polishing && !g.forced && !g.immediate && !s.unitHeld .facet (facetIx c x).val)
    && s.roomForPass j f c p t && s.needsMet c p t (s.passNeeds j f p c t)

/-- Whether the next pass of a task may issue now. -/
def State.passReady (s : State) (n : Fin 32) (j : Job) (c : Fin 32) (f : InFlight) (p : Product) (t : Task) : Bool :=
  s.passResident j c f p t && s.drainedFor n c t.ref p

/-- The task of a command whose pass is next on a core, by its walk (R282). -/
def State.nextTask (s : State) (j : Job) (c : Fin 32) (f : InFlight) (p : Product) : Option Task :=
  let l := (s.cores[c]).tasks.filter fun t => t.ref == f.ref && s.passResident j c f p t
  if p.walk = 1 then
    l.foldl (fun b t => match b with | none => some t | some u => if t.nextIndex < u.nextIndex then some t else some u) none
  else l.head?

/-- R152: the earliest primary command whose next pass has its operands, else the earliest deferred one. -/
def State.firstPass (s : State) (n : Fin 32) (j : Job) (c : Fin 32) : Option (InFlight × Product × Task) :=
  let order := (j.flight.filter fun f => !f.deferred) ++ j.flight.filter fun f => f.deferred
  order.findSome? fun f =>
    match s.liveProduct n f.ref with
    | none => none
    | some (f, p) => (s.nextTask j c f p).map fun t => (f, p, t)

/-- The pass that a core starts next: it waits while the core drains (R100), and no pass behind it starts meanwhile. -/
def State.pickPass (s : State) (n : Fin 32) (j : Job) (c : Fin 32) : Option (InFlight × Product × Task) :=
  (s.firstPass n j c).filter fun x => s.drainedFor n c x.1.ref x.2.1

/-! ### Detections at a pass's issue (R257, R331, R334, Table 14-3) -/

/-- The disagreements of the feeder's copies in a pass (0x0303), each of which repeats its element; at one element in three passes in a row they fence the
core. -/
def State.feederErrors (s : State) (c : Fin 32) (f : InFlight) (l : List Nat) : State :=
  let runs := runsNext (s.cores[c]).feederRun l
  let s1 := s.modCore c fun k =>
    { k with feederRun := runs, counters := { k.counters with feederCheck := satAddW k.counters.feederCheck l.length } }
  let s2 := l.foldl (fun s _ => s.cmdEvent 0x0303 .core c.val f 0) s1
  if permanent runs then s2.fenceCore c (some f) 3 else s2

/-- A stage-buffer parity error in a carry row poisons it (R257). -/
def State.carryParity (s : State) (n : Fin 32) (c : Fin 32) (i : Fin 64) (word : Nat) : State :=
  let hit (t : Task) : Task :=
    match s.liveProduct n t.ref, t.carrySlots.idxOf? i with
    | some (_, p), some k =>
      let x := (64 * k + word / 128) / p.carryCols
      if 8 * (word % 128) < 656 && x < (p.itemRows t.item).2 then { t with poison := insertNat ((p.itemRows t.item).1 + x) t.poison } else t
    | _, _ => t
  s.modCore c fun k => { k with tasks := k.tasks.map hit }

def Detection.feederAt : Detection → Option Nat
  | .feeder e => some e
  | _ => none

/-- The detections of the stage buffer, its tags and the feeder, as a pass of a command starts. -/
def State.issueDetections (s : State) (n : Fin 32) (c : Fin 32) (f : InFlight) (det : List Detection) : State :=
  let s1 := det.foldl (fun s d =>
    match d with
    | .slotParity i w => (s.slotParity n c i (some f) w).carryParity n c i w
    | .tagParity i => s.tagParity c i
    | _ => s) s
  (s1.feederErrors c f (det.filterMap Detection.feederAt)).reportsInOrder s

/-! ### PASS_ISSUE -/

/-- Takes `k` free result-class slots for carry rows. -/
def State.takeCarry (c : Fin 32) : Nat → State × List (Fin 64) → State × List (Fin 64)
  | 0, x => x
  | k + 1, (s, l) =>
    match s.takeSlot c 1 with
    | some (i, s1) =>
      State.takeCarry c k
        (s1.modCore c fun q => { q with slots := vmod q.slots i fun sl => sl.refill [] [] }, l ++ [i])
    | none => (s, l)

/-- The task with its carry slots and its accumulator range. -/
def State.prepare (s : State) (c : Fin 32) (p : Product) (t : Task) (l : List PassPlan) : State × Task :=
  if p.accum then
    if t.accRows > 0 then (s, t)
    else
      let n := (p.itemRows t.item).2
      (s, { t with accBase := (s.accFree c t n).getD 0, accRows := n })
  else if !t.carrySlots.isEmpty || l.all (·.last) then (s, t)
  else
    let (s1, l) := State.takeCarry c (p.carrySlotsFor t.item) (s, [])
    (s1, { t with carrySlots := l })

/-- R255: a result-class slot that the carry rows of a task would be written to is held. -/
def State.carryHeld (s : State) (c : Fin 32) (p : Product) (t : Task) (l : List PassPlan) : Bool :=
  let k := s.cores[c]
  !p.accum && t.carrySlots.isEmpty && !l.all (·.last)
    && ((k.hampers[(1 : Fin 16)]).take (p.carrySlotsFor t.item)).any fun h => (k.slots[handleSlot h]).hold ≠ 0

/-- The slots that a pass reads, each once, with their cores: its own, and those that own the slots of handles (R253). -/
def State.slotsRead (s : State) (c : Fin 32) (p : Product) (t : Task) (l : List Need) : List (Fin 32 × Fin 64) :=
  (l.filterMap fun x => (s.copyFor c p t x).map fun y => (y.1, y.2.1)).eraseDups

/-- The copies that a pass reads have been read (R250), each of their slots is held once more (R254), and their handles leave the queues of tiles that
are ready (Table 10-5). -/
def State.markRead (s : State) (c : Fin 32) (p : Product) (t : Task) (l : List Need) : State :=
  let srcs := l.map (·.src)
  (s.slotsRead c p t l).foldl (fun s i =>
    let h := s.handleOf i.1 i.2
    s.modCore i.1 fun k =>
      { k with
        hampers := vmod (vmod k.hampers 4 (·.filter (· ≠ h))) 5 (·.filter (· ≠ h))
        slots := vmod k.slots i.2 fun sl =>
          { sl with hold := sl.hold + 1, tiles := sl.tiles.map fun x => if srcs.contains x.src || x.tokenTile.isSome then { x with read := true } else x } }) s

/-- The next pass of a task starts. Behind a pass that awaits its verdict it is only noted: its rows are formed once that verdict is clean, since no
row of it is used before (R91, R132). -/
def State.startPass (s : State) (j : Job) (c : Fin 32) (f : InFlight) (p : Product) (t : Task) (l : List PassPlan) (q : PassPlan) : State :=
  let all := p.itemTokens (s.goneIn j p c t) f.step t.item
  let ts := t.tokensFrom all
  let needs := s.planNeeds j p t q ts
  let (s1, t0) := s.prepare c p { t with passes := some l } l
  let held := s1.slotsRead c p t0 needs
  let s2 := s1.markRead c p t0 needs
  let t1 : Task := { t0 with held := t0.held ++ held }
  let (s3, t2) :=
    if t.pass.isSome then (s2, ({ t1 with following := some t1.nextIndex } : Task))
    else
      let x := s2.runPass j p c t1 t1.nextPass q ts
      (x.1, ({ t1 with pass := some { number := t1.nextPass, rows := x.2, replays := t1.replays, unfed := [] }
                       unfed := if t1.replay.isEmpty then [] else t1.unfed } : Task))
  (s3.putTask c t2).modCore c fun k => { k with shape := BitVec.ofNat 3 p.shape.code }

/-- R109 on the blocks that a pass of a task loads, those beyond its run-time columns too. -/
def State.patternsBad (s : State) (j : Job) (c : Fin 32) (f : InFlight) (p : Product) (t : Task) (q : PassPlan) : Bool :=
  p.descW.sparse && !p.patternsOk (s.tilesOf c p t .index (s.passNeeds j f p c t)) q.ks (rangeFrom ((p.itemCols t.item).1 + q.col) (p.loadedCols q.cols))

/-- PASS_ISSUE: at a pass boundary of a core. -/
def execPassIssue (core : Fin 32) (det : List Detection) (s : State) : Host.Outcome State Fault Refusal :=
  match s.running with
  | none => .next s
  | some (n, j) =>
    if j.ended || !s.ready || s.dutyInForce = 0 || s.unitHeld .core core.val then .next s
    else
      match s.pickPass n j core with
      | none => .next s
      | some (f, _, _) =>
        if det.contains .control then .next ((s.countCtrl core).failRef n f.ref 0x0306 .step .core core.val)
        else
          let s1 := s.issueDetections n core f det
          match s1.jobs[n] with
          | none => .next s1
          | some j1 =>
            match s1.pickPass n j1 core with
            | none => .next s1
            | some (f1, p1, t1) =>
              match s1.passesOf j1 f1 p1 core t1, s1.nextPlan j1 f1 core p1 t1 with
              | some l, some q =>
                if s1.patternsBad j1 core f1 p1 t1 q then .next (s1.failRef n f1.ref 0x0211 .cmd .core core.val)
                else if s1.carryHeld core p1 t1 l then .next (s1.failRef n f1.ref 0x0209 .cmd .core core.val)
                else .next (s1.startPass j1 core f1 p1 t1 l q)
              | _, _ => .next s1

/-! ### Stealing (R338) -/

/-- A ready pass of the core would use the facet. -/
def State.passWaits (s : State) (g : Fin 128) : Bool :=
  match s.running with
  | none => false
  | some (n, j) =>
    let c := facetCore g
    (s.cores[c]).tasks.any fun t =>
      match s.liveProduct n t.ref with
      | some (f, p) => (s.passFacets c p t.gang).contains (facetSub g) && s.passReady n j c f p t
      | none => false

/-- POLISH_STEAL_STEP: the next step of a facet's polish starts while no ready pass would use the facet (R338). -/
def execPolishStealStep (facet : Fin 128) (s : State) : Host.Outcome State Fault Refusal :=
  let f := s.facets[facet]
  if !s.ready || s.mgmt.polish.disable || !s.mgmt.polish.steal || s.dutyInForce = 0 || !s.facetUp facet || f.polishing
      || (f.polished && !f.immediate) || s.facetBusy facet || s.passWaits facet then .next s
  else .next (s.modFacet facet fun f => { f with polishing := true })

end Sys2Proof.Machine
end

