-- ==== Sys2Proof/Machine/Drain.lean ====
section
/-! DEFINITION. The drain: the scaling of R61, the stages of a chain (R142 to R149, R73, R122), narrowing with its statistics (R65 to
R71, R76, R407), and the writes of a pass-through item and of an accumulator read-out (R133, R156, R157, R278, R286). -/

namespace Sys2Proof.Machine

/-! ### Functions (Table 06-7, R144) -/

def fpHalf : Word := 0x3F000000

/-- The FP32 value nearest to n / d. -/
def fpConst (n d : Nat) : Word := fpRound false (n * 2 ^ 149) d

def geluC : Word := fpConst 79788456 100000000
def geluK : Word := fpConst 44715 1000000
def geluK3 : Word := fpConst 134145 1000000

def fpSigmoid (z : Word) : Word := fpRecip (fpAdd fpOne (fpExpFn (fpNegate z)))

/-- The TANH term of GELU. -/
def geluT (z : Word) : Word :=
  let p := fpMul (fpMul z z) z
  fpTanh (fpMul geluC (fpAdd z (fpMul geluK p)))

def Func.eval : Func → Word → Word
  | .relu, z => if fpIsNaN z || z = 0x80000000 then Config.reluEdge z else if fpLt 0 z then z else 0
  | .leaky k, z => if fpLt z 0 then fpMul z (fpTwoPow (-(k : Int))) else z
  | .sigmoid, z => fpSigmoid z
  | .tanh, z => fpTanh z
  | .silu, z => fpMul z (fpSigmoid z)
  | .gelu, z => fpMul (fpMul fpHalf z) (fpAdd fpOne (geluT z))
  | .exp, z => fpExpFn z
  | .recip, z => fpRecip z
  | .rsqrt, z => fpRsqrt z

/-- f′ from the saved value. EXP, RECIP and RSQRT have none (R142). -/
def Func.derivAt : Func → Word → Word
  | .relu, z => if fpLt 0 z then fpOne else 0
  | .leaky k, z => if fpLt 0 z then fpOne else fpTwoPow (-(k : Int))
  | .sigmoid, y => fpMul y (fpSub fpOne y)
  | .tanh, y => fpSub fpOne (fpMul y y)
  | .silu, z =>
    let s := fpSigmoid z
    fpMul s (fpAdd fpOne (fpMul z (fpSub fpOne s)))
  | .gelu, z =>
    let t := geluT z
    let a := fpMul fpHalf (fpAdd fpOne t)
    let g := fpMul geluC (fpAdd fpOne (fpMul geluK3 (fpMul z z)))
    fpAdd a (fpMul (fpMul fpHalf z) (fpMul (fpSub fpOne (fpMul t t)) g))
  | _, _ => fpOne

/-- A sum in order, each addition rounded. -/
def sumRne : List Word → Word
  | [] => 0
  | x :: r => r.foldl fpAdd x

/-! ### Side operands (R145) -/

/-- A side operand in hand. `zero` marks one that is skipped (R256). -/
structure Side where
  desc : Desc
  scale : Scale
  pl : Place
  tiles : List Tile
  zero : Bool
deriving DecidableEq, Repr

def Side.tile (x : Side) (k : Nat) : Option Tile := x.tiles.find? fun t => t.tile == k

/-- Element (r, c) of a side operand as FP32, and whether it is poisoned. -/
def Side.elem (x : Side) (r c : Nat) : Word × Bool :=
  if x.zero then (0, false)
  else if x.desc.layout = .rows then
    match x.tile r with
    | some t => (x.scale.value x.desc.zp (elemAt x.desc.form x.desc.cols t.byte c), t.copy.poison != 0)
    | none => (0, false)
  else
    match tileElem x.tiles x.desc.form (x.desc.spot x.pl r c) with
    | some (v, bad) => (x.scale.value x.desc.zp v, bad)
    | none => (0, false)

/-- A partial of a flat table (R147). -/
def Side.partialAt (x : Side) (t q : Nat) : Word × Bool :=
  let o := 4 * (t * x.desc.cols + q)
  if x.zero then (0, false)
  else
    match x.tile (o / 16384) with
    | some y => (BitVec.ofNat 32 (leNat ((List.range 4).map fun i => y.byte (o % 16384 + i))), y.copy.rowBad (o % 16384 / 256))
    | none => (0, false)

/-- D_t: the partials of a token added in order. -/
def Side.rowSum (x : Side) (t : Nat) : Word × Bool :=
  let l := (List.range x.desc.cols).map (x.partialAt t)
  (sumRne (l.map (·.1)), l.any (·.2))

/-! ### Rows in the drain -/

/-- A final row: its token, its integer sums with their flags (integer pairs), its values, and poison. -/
structure DRow where
  t : Nat
  ints : List (Int × Bool)
  vals : List Word
  bad : Bool
deriving DecidableEq, Repr

/-- Zips the values of a row with their columns. -/
def DRow.mapCols (r : DRow) (lo : Nat) (g : Nat → Word → Word × Bool) : DRow :=
  let l := r.vals.zipIdx.map fun x => g (lo + x.2) x.1
  { r with vals := l.map (·.1), bad := r.bad || l.any (·.2) }

/-- ROTATE over the groups of 64 columns that a row holds; a column that the row does not hold counts as +0 (log 46). -/
def rotateRow (n lo : Nat) (l : List Word) : List Word :=
  let first := lo / 64 * 64
  let padded := List.replicate (lo - first) 0 ++ l
  let groups := ceilDiv padded.length 64
  let full := padded ++ List.replicate (64 * groups - padded.length) 0
  let out := ((List.range groups).map fun g => rotate64 ((full.drop (64 * g)).take 64)).flatten
  (out.drop (lo - first)).take n

/-- One stage that changes values (Table 06-6). `sides` are those of the stage. -/
def Stage.run (st : Stage) (lo : Nat) (sides : List Side) (r : DRow) : DRow :=
  match st, sides with
  | .bias, [b] => r.mapCols lo fun c x => let y := b.elem 0 c; (fpAdd x y.1, y.2)
  | .add, [y] => r.mapCols lo fun c x => let v := y.elem r.t c; (fpAdd x v.1, v.2)
  | .mul, [y] => r.mapCols lo fun c x => let v := y.elem r.t c; (fpMul x v.1, v.2)
  | .func f, _ => r.mapCols lo fun _ x => (f.eval x, false)
  | .deriv f, [u] => r.mapCols lo fun c x => let v := u.elem r.t c; (fpMul x (f.derivAt v.1), v.2)
  | .softmaxBwd, [sd, lse, tab] =>
    let d := tab.rowSum r.t
    let l := lse.elem r.t 0
    r.mapCols lo fun c x =>
      let v := sd.elem r.t c
      (fpMul (fpExpFn (fpSub v.1 l.1)) (fpSub x d.1), v.2 || d.2 || l.2)
  | .normBwd, [xs, rho, g, tab] =>
    let d := tab.rowSum r.t
    let h := rho.elem r.t 0
    let rr := fpRecip h.1
    let q := fpDiv d.1 (fpOfInt xs.desc.cols)
    r.mapCols lo fun c x =>
      let v := xs.elem r.t c
      let w := g.elem 0 c
      (fpMul (fpSub (fpMul w.1 x) (fpMul (fpMul v.1 rr) q)) rr, v.2 || w.2 || d.2 || h.2)
  | .rotate, _ => { r with vals := rotateRow r.vals.length lo r.vals }
  | _, _ => r

/-! ### ROWDOT (R147) -/

/-- The partials of a row, one for each 64 columns whatever the shape (R126): address offset and value; and whether an element of h is poisoned. DESIGN
CHOICE (log 125): n_q counts the chunks of the planned N. -/
def partials (plan : Nat) (lo : Nat) (h : Side) (r : DRow) : List (Nat × Word) × Bool :=
  let nq := ceilDiv plan 64
  let l := r.vals.zipIdx.map fun x =>
    let v := h.elem r.t (lo + x.2)
    ((lo + x.2) / 64, fpMul x.1 v.1, v.2)
  ((sortNat (l.map (·.1))).map fun q => (4 * (r.t * nq + q), sumRne ((l.filter fun x => x.1 = q).map fun x => x.2.1)),
    l.any fun x => x.2.2)

/-! ### Outputs -/

/-- A range that the drain reads beside its rows: tier, address and size, with the token of the result row that it is for, or none where every row of the
item meets it. -/
abbrev DrainRead := Option Nat × Bool × Nat × Nat

/-- What a settle reads, writes and counts. -/
structure Settle where
  reads : List DrainRead
  writes : List OutWrite
  stats : Stats
  chanMax : List Word
  sats : Nat
  nonfinite : Bool
deriving DecidableEq, Repr

/-- The destination is an activation: the result of a FORWARD product (DEDUCED, log 48). -/
def Product.isActivation (p : Product) : Bool := p.kind == .forward

def Product.yZero (p : Product) : Int := if p.isActivation && p.scaleY.form.isInt then p.descY.zp else 0

/-- The smoothing exponent of a channel (R75, R76). -/
def State.smoothOf (s : State) (d : Desc) (k : Nat) : Int :=
  match d.ext with
  | some e => if d.smooth then (s.ext.near.read (e.smoothBase + k)).toInt else 0
  | none => 0

/-- An element that a settle writes: the token whose row it is of, its row and column in the tensor, and its code. -/
structure OutElem where
  t : Nat
  r : Nat
  c : Nat
  v : Nat
deriving DecidableEq, Repr

/-- The plane of elements that holds tile, or row of a row layout, `k`: its address, its elements, and where the mover splits its requests (R241). -/
def Desc.planeAt (d : Desc) (add k : Nat) : Nat × Nat × Nat :=
  if d.layout = .rows then (d.base + add + k * d.itemStride, d.cols, 0) else (d.tileAddr add k, 4096, splitUnit (d.tileAddr add k) d.tileSize)

/-- The writes of elements of a tensor, for the given list entries. -/
def State.planeWrites (s : State) (d : Desc) (add : Nat) (tokens : List Nat) (l : List OutElem) : List OutWrite :=
  ((d.byTile (l.map fun e => (e.r, e.c, e.v))).map fun x =>
    let (a, n, unit) := d.planeAt add x.1
    (s.elemWrites d.far d.form n a x.2).map fun w =>
      ({ far := d.far, addr := w.1, bytes := w.2, bad := [], tokens := tokens, unit := unit } : OutWrite)).flatten

/-- The rows of elements by their tokens. -/
def byToken (l : List OutElem) : List (Nat × List OutElem) := (sortNat (l.map (·.t))).map fun t => (t, l.filter fun e => e.t = t)

/-- The writes of elements of a tensor: in a roster body row by row, each for the sequence of its row (R306). -/
def State.elemOut (s : State) (body : Bool) (d : Desc) (add : Nat) (l : List OutElem) : List OutWrite :=
  if body then ((byToken l).map fun x => s.planeWrites d add [x.1] x.2).flatten else s.planeWrites d add [] l

/-- Elements in one 8-byte word of a plane. -/
def Form.perWord (f : Form) : Nat := match f.width with | 8 => 8 | 32 => 2 | 64 => 1 | _ => 64

/-- The words that elements of a plane cover in part. -/
def partWords (f : Form) (n : Nat) (es : List Nat) : List Nat :=
  (sortNat (es.map (elemWords f n)).flatten).filter fun w => (es.filter fun e => (elemWords f n e).contains w).length < f.perWord

/-- R278: the drain reads the words that the elements cover only in part. A word lies in one row of its tile. -/
def Desc.partReads (d : Desc) (add : Nat) (l : List OutElem) : List DrainRead :=
  ((byToken l).map fun x => ((d.byTile (x.2.map fun e => (e.r, e.c, e.v))).map fun y =>
    let (a, n, _) := d.planeAt add y.1
    (wordRuns (partWords d.form n (y.2.map (·.1)))).map fun w => ((some x.1, d.far, a + 8 * w.1, 8 * w.2) : DrainRead)).flatten).flatten

/-- The drain reads every word that elements of a row are combined with (R133). -/
def Desc.oldReads (d : Desc) (add : Nat) (l : List OutElem) : List DrainRead :=
  ((byToken l).map fun x => ((d.byTile (x.2.map fun e => (e.r, e.c, e.v))).map fun y =>
    let (a, n, _) := d.planeAt add y.1
    (wordRuns (sortNat (y.2.map fun e => elemWords d.form n e.1).flatten)).map fun w =>
      ((some x.1, d.far, a + 8 * w.1, 8 * w.2) : DrainRead)).flatten).flatten

/-- A write of single bytes of a settle, for the row of a token. -/
structure RowWrite where
  t : Nat
  far : Bool
  addr : Nat
  bytes : List Byte
deriving DecidableEq, Repr

def RowWrite.out (body : Bool) (w : RowWrite) : OutWrite :=
  { far := w.far, addr := w.addr, bytes := w.bytes, bad := [], tokens := if body then [w.t] else [], unit := 0 }

/-- The 8-byte words that writes cover only in part, each with a token whose row they are for (R278, R362). -/
def edgeReads (l : List RowWrite) : List DrainRead :=
  let part (far : Bool) : List DrainRead :=
    let here := l.filter fun w => w.far == far
    let runs := joinRanges (sortPairs (here.map fun w => (w.addr, w.bytes.length)))
    let words := sortNat (runs.map fun x => (if x.1 % 8 = 0 then [] else [x.1 / 8]) ++ if (x.1 + x.2) % 8 = 0 then [] else [(x.1 + x.2) / 8]).flatten
    (words.map fun k => ((here.filter fun w => w.addr < 8 * k + 8 && 8 * k < w.addr + w.bytes.length).map fun w =>
      ((some w.t, far, 8 * k, 8) : DrainRead)).eraseDups).flatten
  part false ++ part true

def planeBit (k : PlaneKind) (x : Word) : Bool :=
  match k with
  | .pos => fpLt 0 x
  | .neg => fpLt x 0
  | .nonzero => !fpIsZero x

def planeBitInt (k : PlaneKind) (x : Int) : Bool :=
  match k with
  | .pos => 0 < x
  | .neg => x < 0
  | .nonzero => x ≠ 0

/-- A stage that makes values of the real numbers that integer sums stand for (R61). -/
def Stage.isFloat (st : Stage) : Bool := !st.isPlane && !st.narrows

/-- The bits that a PLANE stage writes for a row. -/
def Product.planeBits (p : Product) (k : PlaneKind) (r : DRow) : List Bool :=
  if p.scaleA.form.isInt && !(p.chain.any Stage.isFloat) then r.ints.map fun x => planeBitInt k x.1 else r.vals.map (planeBit k)

/-- The code that NARROW, REQUANT or a plain write gives each element of a row, with its quantization where there is one. -/
def Product.rowCodes (p : Product) (r : DRow) : List (Nat × Option Quant) :=
  if Stage.ends p.chain .narrow then
    r.vals.map fun x => let q := quantize p.scaleY.form p.isActivation p.yZero p.scaleY.rscale x; (q.code, some q)
  else if Stage.ends p.chain .requant then
    match p.descY.ext with
    | some e => r.ints.map fun x => let q := requant p.descY.form p.isActivation x.1 e.reqM e.reqSh p.yZero; (q.code, some q)
    | none => r.ints.map fun x => ((BitVec.ofInt 32 x.1).toNat, none)
  else if p.descY.form = .int32 then r.ints.map fun x => ((BitVec.ofInt 32 (clampInt32 x.1).1).toNat, none)
  else r.vals.map fun x => (x.toNat, none)

/-- Saturation flags that an INT32 write of a corrected sum sets (R63). -/
def Product.lateSats (p : Product) (r : DRow) : Nat :=
  if p.descY.form = .int32 && !p.accum then (r.ints.filter fun x => (clampInt32 x.1).2 && !x.2).length else 0

/-- Counts a row's elements (R70, R407). -/
def Product.countRow (p : Product) (below : Word) (st : Stats) (r : DRow) (codes : List (Nat × Option Quant)) : Stats :=
  if Stage.ends p.chain .requant then
    (r.ints.zip codes).foldl (fun st x =>
      match x.2.2 with
      | some q =>
        let a := fpMul (fpOfInt x.1.1.natAbs) p.sAB
        { st with amax := fpMax st.amax a, elements := st.elements + 1, flushed := st.flushed + boolNat q.flushed
                  saturated := st.saturated + boolNat q.saturated }
      | none => st) st
  else
    (r.vals.zip codes).foldl (fun st x => match x.2.2 with | some q => st.count x.1 q below | none => st) st

/-- The largest magnitudes of the channels (R75). -/
def maxColumns (lo : Nat) (m : List Word) (r : DRow) : List Word :=
  m.zipIdx.map fun x => if lo ≤ x.2 && x.2 < lo + r.vals.length then fpMax x.1 (fpAbs (r.vals.getD (x.2 - lo) 0)) else x.1

/-! ### Pass-through items -/

/-- The side operands of an item, in order. -/
def State.sidesFor (s : State) (j : Job) (p : Product) (c : Fin 32) (t : Task) : List Side :=
  let b := (p.itemPos t.item).batch
  let (lo, n) := p.itemCols t.item
  let (r0, rn) := p.itemRows t.item
  let needs := s.sideNeeds j p b (rangeFrom r0 rn) (rangeFrom lo n)
  (p.sides.zip p.sideScales).zipIdx.map fun x =>
    { desc := x.1.1, scale := x.1.2, pl := s.place j p x.1.1 b, tiles := s.tilesOf c p t (.side x.2) needs
      zero := p.zeroed.contains (.side x.2) }

/-- The weight-row sum of an output (R63). DESIGN CHOICE (log 123): one vector serves every batch item. -/
def State.rowSumOf (s : State) (p : Product) (j : Nat) : Int :=
  match p.descW.ext with
  | some e => (BitVec.ofNat 32 (s.ext.near.field (e.rowsumBase + 4 * j) 4)).toInt
  | none => 0

/-- CORRECTION applies: the drain subtracts z × r_j of a sum of products; the other modes have had the zero point subtracted by the feeder (R53, log
130). A skipped streamed operand has nothing to correct (log 49). -/
def Product.corrects (p : Product) : Bool := p.mode == .mac && p.descA.zpMode == 1 && !p.zeroed.contains .streamed

/-- A result row converted and scaled (R57, R58, R61, R63), and the saturation flags that its conversion set. -/
def State.convertRow (s : State) (p : Product) (lo : Nat) (r : ResultRow) : DRow × Nat :=
  let lsb := lsbExp p.mode p.scaleA.form p.scaleW.form p.lsbShift
  if p.scaleA.form.isInt then
    let raw := r.sums.map (convertInt p.lsbShift)
    let ints := raw.zipIdx.map fun x => if p.corrects then (x.1.1 - p.descA.zp * s.rowSumOf p (lo + x.2), x.1.2) else x.1
    ({ t := r.token, ints := ints, vals := ints.map fun x => fpMul (fpOfInt x.1) p.sAB, bad := r.poisoned },
      (raw.filter fun x => x.2).length)
  else
    ({ t := r.token, ints := [], vals := (r.sums.zip r.tags).map fun x => fpMul (convertFloat p.mode lsb x.1 x.2) p.sAB, bad := r.poisoned }, 0)

/-- The value-changing stages of a chain, in order. -/
def runStages (lo : Nat) (sides : List Side) (r : DRow) : List (Stage × Nat) → DRow
  | [] => r
  | (st, i) :: rest => runStages lo sides (st.run lo ((sides.drop i).take st.sides) r) rest

/-- What each ROWDOT of a chain writes: it sees the value where it stands. -/
def rowdots (plan lo : Nat) (sides : List Side) (r : DRow) : List (Stage × Nat) → List (Side × List (Nat × Word)) × Bool
  | [] => ([], false)
  | (st, i) :: rest =>
    let r1 := st.run lo ((sides.drop i).take st.sides) r
    let l := rowdots plan lo sides r1 rest
    match st, (sides.drop i).take 2 with
    | .rowdot, [h, tab] => let x := partials plan lo h r; ((tab, x.1) :: l.1, x.2 || l.2)
    | _, _ => l

/-- A row through the chain: the row after its stages, and its ROWDOT partials. -/
def Product.chainRow (p : Product) (plan lo : Nat) (sides : List Side) (r : DRow) : DRow × List (Side × List (Nat × Word)) :=
  let l := sideStarts p.chain 0
  let x := rowdots plan lo sides r l
  let r1 := runStages lo sides r l
  ({ r1 with bad := r1.bad || x.2 }, x.1)

/-- What the drain reads for the columns of an item: its row sums and its smoothing exponents (R63, R75). -/
def Product.columnReads (p : Product) (i : Nat) : List DrainRead :=
  let (lo, n) := p.itemCols i
  let sums := match p.descW.ext with | some e => if p.corrects then [(none, false, e.rowsumBase + 4 * lo, 4 * n)] else [] | none => []
  let exps := match p.descY.ext with | some e => if p.descY.smooth then [(none, false, e.smoothBase + lo, n)] else [] | none => []
  sums ++ exps

/-- The tokens among `ts` whose rows meet poison in what the drain has read for them (R258; DEDUCED, log 154). -/
def State.drainBad (s : State) (reads : List DrainRead) (ts : List Nat) : List Nat :=
  let bad := reads.filter fun x => s.ext.poisoned x.2.1 x.2.2.1 x.2.2.2
  if bad.any fun x => x.1.isNone then ts else ts.filter fun t => bad.any fun x => x.1 = some t

/-- What the settle of a pass-through item writes, from its rows after the chain, whose first column is `lo`. DESIGN CHOICE (log 124): smoothing acts on
FP32 values alone, so the integers of a REQUANT or an INT32 write stay as they are. -/
def State.itemSettle (s : State) (body : Bool) (j : Job) (p : Product) (i lo : Nat) (sides : List Side) (rows : List (DRow × List (Side × List (Nat × Word)))) : Settle :=
  let b := (p.itemPos i).batch
  let pl := s.place j p p.descY b
  let smooth (r : DRow) : DRow :=
    r.mapCols lo fun c x => (if p.descY.smooth then fpMul x (fpTwoPow (-(s.smoothOf p.descY (pl.col + c)))) else x, false)
  let out := rows.map fun x => (x.1, smooth x.1)
  let coded := out.map fun x => (x.1, x.2, p.rowCodes x.2)
  let row (d : Place) (t : Nat) (l : List Nat) : List OutElem :=
    l.zipIdx.map fun v => { t := t, r := d.row + t, c := d.col + lo + v.2, v := v.1 }
  let yElems := (coded.map fun x => row pl x.1.t (x.2.2.map (·.1))).flatten
  let planes := (sideStarts p.chain 0).filterMap fun st =>
    match st.1, sides[st.2]? with
    | .plane k, some sd => some (sd, (rows.map fun x => row sd.pl x.1.t ((p.planeBits k x.1).map boolNat)).flatten)
    | _, _ => none
  let tables := (rows.map fun x => (x.2.map fun y => y.2.map fun z =>
    ({ t := x.1.t, far := y.1.desc.far, addr := y.1.desc.base + y.1.pl.add + z.1, bytes := leBytes 4 z.2.toNat } : RowWrite)).flatten).flatten
  { reads := p.columnReads i ++ p.descY.partReads pl.add yElems ++ (planes.map fun x => x.1.desc.partReads x.1.pl.add x.2).flatten ++ edgeReads tables
    writes := s.elemOut body p.descY pl.add yElems ++ (planes.map fun x => s.elemOut body x.1.desc x.1.pl.add x.2).flatten
      ++ tables.map (RowWrite.out body)
    stats := coded.foldl (fun st x => p.countRow p.below st x.2.1 x.2.2) Stats.zero
    chanMax := if p.descY.chanStats then rows.foldl (fun m x => maxColumns (pl.col + lo) m x.1) p.chanMax else p.chanMax
    sats := (rows.map fun x => p.lateSats x.1).sum
    nonfinite := coded.any fun x => x.2.2.any fun v => match v.2 with | some q => q.nonfinite | none => false }

/-! ### Accumulator memory (R127 to R133) -/

/-- Byte address of word `w` of tile row `r`. -/
def accAddr (r w : Nat) : Nat := 512 * r + 8 * w

def accWord (m : Mem) (r w : Nat) : AccWord := accOf (BitVec.ofNat 64 (m.field (accAddr r w) 8))

/-- The writer of a word forms its residue (R332). -/
def Facet.putWord (f : Facet) (r w : Nat) (x : AccWord) : Facet :=
  { f with acc := f.acc.writeBytes (accAddr r w) (leBytes 8 (accBits x).toNat)
           residues := f.residues.write (64 * r + w) (BitVec.ofNat 8 (residue (accBits x))) }

/-- The first row of a range with a word that its reader finds to disagree with its residue (R332). -/
def Facet.badRow (f : Facet) (base rows cols : Nat) : Option Nat :=
  (rangeFrom base rows).find? fun r =>
    (List.range cols).any fun w => !residueOk (BitVec.ofNat 64 (f.acc.field (accAddr r w) 8)) (f.residues.read (64 * r + w))

/-- A result row added into its accumulator row; and the saturation flags that are set (R58, R130). -/
def Product.accumulate (p : Product) (f : Facet) (row : Nat) (r : ResultRow) : Facet × Nat :=
  let lsb := lsbExp p.mode p.scaleA.form p.scaleW.form p.lsbShift
  ((r.sums.zip r.tags).zipIdx).foldl (fun (x : Facet × Nat) (y : (BitVec 80 × Tag) × Nat) =>
    let w := accWord x.1.acc row y.2
    if p.scaleA.form.isInt then
      let v := convertInt p.lsbShift y.1.1
      let z := accAddInt w v.1 v.2
      (x.1.putWord row y.2 z.1, x.2 + boolNat v.2 + boolNat z.2)
    else (x.1.putWord row y.2 (accAdd w (fpMul (convertFloat p.mode lsb y.1.1 y.1.2) p.sAB)), x.2)) (f, 0)

/-- Combination of a range with a partial (R137), and the saturation flags that are set. -/
def Product.combineRange (p : Product) (dst : Facet) (src : Mem) (db sb rows : Nat) : Facet × Nat :=
  let cells := ((List.range rows).map fun r => (List.range 64).map fun w => (r, w)).flatten
  cells.foldl (fun (x : Facet × Nat) (y : Nat × Nat) =>
    let a := accWord x.1.acc (db + y.1) y.2
    let b := accWord src (sb + y.1) y.2
    if p.scaleA.form.isInt then
      let z := accAddInt a b.v.toInt (b.c.getLsbD 0)
      (x.1.putWord (db + y.1) y.2 z.1, x.2 + boolNat z.2)
    else (x.1.putWord (db + y.1) y.2 (accCombine a b), x.2)) (dst, 0)

/-! ### Read-out -/

/-- Values of an accumulator row after the chain: FP32 words, or the words as stored. -/
structure AccRow where
  t : Nat
  words : List AccWord
  row : DRow
deriving DecidableEq, Repr

/-- The bytes of an element in its settle form; `old` are the destination's bytes for ADD_WIDE. -/
def Product.settleBytes (p : Product) (w : AccWord) (x : Word) (old : List Byte) : List Byte :=
  match p.settleForm with
  | .fp32 => leBytes 4 x.toNat
  | .wide => leBytes 8 (accBits w).toNat
  | .addWide => leBytes 8 (accBits (accCombine (accOf (BitVec.ofNat 64 (leNat old))) w)).toNat
  | .int32 => leBytes 4 w.v.toNat

/-- Address of a pattern position in a gradient plane with `k` values per column (R133, R156). -/
def gradAddr (base : Nat) (d : Desc) (k e pat r c : Nat) : Nat :=
  let x := d.sparsePos r c
  base + x.tile * (8 * k * e * 128) + e * (8 * k * (16 * x.br + x.bc) + valueNo k pat x.r x.c)

/-- The element (t, c) of a gradient plane, its complement and its candidate block: what the drain writes of it. -/
def State.gradWrites (s : State) (p : Product) (idx : List Tile) (add : Nat) (mr : List Byte) (t c : Nat) (w : AccWord) (x : Word) : List RowWrite :=
  let d := p.descY
  let k := d.layout.perCol
  let e := d.form.width / 8
  let pat := patternIn d idx t c
  let pos := d.sparsePos t c
  let here := pat.testBit (8 * pos.r + pos.c)
  if pat ≠ 0 && here then
    let a := gradAddr (d.base + add) d k e pat t c
    [{ t := t, far := d.far, addr := a, bytes := p.settleBytes w x ((s.ext.mem d.far).bytes a e) }]
  else if pat ≠ 0 then
    (if p.comp then [{ t := t, far := false, addr := gradAddr (u64 mr 0x60) d (8 - k) 4 (2 ^ 64 - 1 - pat) t c, bytes := leBytes 4 x.toNat }] else [])
  else if p.cand then
    [{ t := t, far := false, addr := u64 mr 0x68 + 32768 * pos.tile + 256 * (16 * pos.br + pos.bc) + 4 * (8 * pos.r + pos.c), bytes := leBytes 4 x.toNat }]
  else []

/-- The bytes of the candidate map that a unit covers (R157): the bits of the blocks that it writes, columns `lo` to `hi` of the rows given. A band beyond
the run-time rows has none. -/
def Product.candMap (p : Product) (idx : List Tile) (mr : List Byte) (rows : List Nat) (all : List Nat) (lo hi : Nat) : List RowWrite :=
  if !p.cand then []
  else
    ((sortNat (all.map (· / 8))).map fun b => (stripsOf lo (hi - lo)).map fun st =>
      let pos := p.descY.sparsePos (8 * b) (64 * st)
      let written (i : Nat) : Bool := lo < 64 * st + 8 * i + 8 && 64 * st + 8 * i < hi
      let set := (List.range 8).filter fun i =>
        written i && rows.contains (8 * b) && patternIn p.descY idx (8 * b) (64 * st + 8 * i) == 0
      ({ t := 8 * b, far := false, addr := u64 mr 0x70 + 16 * pos.tile + 2 * pos.br + pos.bc / 8
         bytes := [BitVec.ofNat 8 ((set.map (2 ^ ·)).sum)] } : RowWrite)).flatten

/-- What the settle of a unit writes. -/
def State.unitSettle (s : State) (body : Bool) (j : Job) (f : InFlight) (p : Product) (c : Fin 32) (u : Task) (rows : List AccRow) : Settle :=
  let i := u.item
  let b := (p.itemPos i).batch
  let lo := (p.itemCols i).1
  let pl := s.place j p p.descY b
  if p.descY.sparse then
    let idx := s.tilesOf c p u .index (s.indexNeeds j p u.gang i)
    let streamed := p.itemTokens (s.goneIn j p c u) f.step i
    let mr := if p.descY.maskRec = 0 then [] else s.near p.descY.maskRec 512
    let kept := rows.filter fun r => streamed.contains r.t
    let one (r : AccRow) : List RowWrite :=
      ((r.words.zip r.row.vals).zipIdx.map fun x => s.gradWrites p idx pl.add mr r.t (lo + x.2) x.1.1 x.1.2).flatten
    let (r0, _) := p.itemRows i
    let grads := (kept.map one).flatten
    let map := p.candMap idx mr streamed (rangeFrom r0 (Nat.min p.blockLen (p.planned.p - r0))) lo (lo + (p.itemCols i).2)
    let old : List DrainRead := if p.settleForm = .addWide then
        (grads.filter fun w => w.bytes.length = 8).map fun w => (some w.t, w.far, w.addr, 8) else []
    { reads := old ++ edgeReads (grads ++ map), writes := (grads ++ map).map (RowWrite.out body), stats := Stats.zero
      chanMax := p.chanMax, sats := 0, nonfinite := false }
  else
    let coded := rows.map fun r => (r, p.rowCodes r.row)
    let elem (r : AccRow) (x : (AccWord × (Nat × Option Quant)) × Nat) : Nat :=
      match p.settleForm with
      | .fp32 => x.1.2.1
      | .wide => (accBits x.1.1).toNat
      | .addWide =>
        let old := s.extElem p.descY pl.add (pl.row + r.t) (pl.col + lo + x.2)
        (accBits (accCombine (accOf (BitVec.ofNat 64 old)) x.1.1)).toNat
      | .int32 => x.1.1.v.toNat
    let vals : List OutElem := (coded.map fun r => (r.1.words.zip r.2).zipIdx.map fun x =>
      ({ t := r.1.t, r := pl.row + r.1.t, c := pl.col + lo + x.2, v := elem r.1 x } : OutElem)).flatten
    let sats := p.descSat.toList.map fun d =>
      let pd := s.place j p d b
      (d, pd.add, (rows.map fun r => r.words.zipIdx.map fun x =>
        ({ t := r.t, r := pd.row + r.t, c := pd.col + lo + x.2, v := boolNat (x.1.c.getLsbD 0) } : OutElem)).flatten)
    { reads := (if p.settleForm = .addWide then p.descY.oldReads pl.add vals else p.descY.partReads pl.add vals)
        ++ (sats.map fun x => x.1.partReads x.2.1 x.2.2).flatten
      writes := s.elemOut body p.descY pl.add vals ++ (sats.map fun x => s.elemOut body x.1 x.2.1 x.2.2).flatten
      stats := coded.foldl (fun st r => p.countRow p.below st r.1.row r.2) Stats.zero, chanMax := p.chanMax, sats := 0
      nonfinite := coded.any fun r => r.2.any fun v => match v.2 with | some q => q.nonfinite | none => false }

/-- The rows of a unit's range, with the read-out stages run on them. -/
def Product.readOut (p : Product) (m : Mem) (t : Task) (plan : Nat) (sides : List Side) : List AccRow :=
  let (r0, rn) := p.itemRows t.item
  let (lo, n) := p.itemCols t.item
  (List.range rn).map fun i =>
    let words := (List.range n).map fun w => accWord m (t.accBase + i) w
    let row : DRow := { t := r0 + i, ints := words.map fun w => (w.v.toInt, w.c.getLsbD 0), vals := words.map accRead
                        bad := t.poison.contains (r0 + i) }
    { t := r0 + i, words := words, row := (p.chainRow plan lo sides row).1 }

end Sys2Proof.Machine
end

