-- ==== Sys2Proof/Machine/Verdict.lean ====
section
/-! DEFINITION. What follows a pass: verdicts and replays (R97 to R99, R132, R335), detections in the array, the accumulate stage and
the drain (Table 14-1, Table 14-3), settles (R133, R135, R254, R258, R286), split units (R136 to R139), the end of a PRODUCT (R70,
R277), and deadlines (R256). Commands: PRODUCT and RT_DEADLINE_MISS. -/

namespace Sys2Proof.Machine

/-! ### Release of slots (R253, R254, R282 to R284) -/

/-- R283: a tile of the pinned operand. -/
def Product.pinned (p : Product) (x : Src) : Bool :=
  let on (d : Desc) : Bool := d.covers (bindingOf p.bindings d).isSome p.batch x
  (p.pin == 1 && on p.descW) || (p.pin == 2 && on p.descA)

/-- R282: the unsettled items of the level-2 group of an item. -/
def Product.groupItems (p : Product) (i : Nat) : List Nat :=
  let g := 2 ^ p.l2Log
  (rangeFrom (i / g * g) g).filter fun x => x < p.items && !p.settled.contains x

/-- The handle of a slot is on its way through a queue 8 to 15, or a task works on it: its consumer releases it (R255). -/
def State.handedOn (s : State) (c : Fin 32) (i : Fin 64) : Bool :=
  let h := s.handleOf c i
  (s.transit.any fun t => t.handle == h)
    || s.cores.toList.any fun k => (k.hampers.toList.drop 8).any (·.contains h) || k.tasks.any fun t => t.queued.contains h

/-- A slot that a settle leaves free: nothing holds it, each of its tiles has been read, and no later pass on the core names one. A
tier-2 tile also waits for the items of the group (R282), a pinned one for the end of the command (R283). -/
def State.slotDone (s : State) (j : Job) (f : InFlight) (p : Product) (c : Fin 32) (item : Nat) (gang : List (Fin 4)) (i : Fin 64) : Bool :=
  let k := s.cores[c]
  let sl : Slot := k.slots[i]
  let tasks := k.tasks.filter fun t => t.ref == f.ref
  sl.owners.contains f.ref && sl.hold = 0 && sl.tiles.all fun y =>
    y.read && !p.pinned y.src && !(tasks.any fun t => (s.laterNeeds j f p c t).any fun x => x.src = y.src)
      && !(y.far && (p.groupItems item).any fun x => (s.laterNeeds j f p c (Task.fresh f.ref x 0 gang [])).any fun x => x.src = y.src)

/-- The slots of a core that the command no longer needs go to their free queues, the oldest first. -/
def State.releaseSlots (s : State) (n : Fin 32) (c : Fin 32) (r : CmdRef) (item : Nat) (gang : List (Fin 4)) : State :=
  match s.jobs[n], s.liveProduct n r with
  | some j, some (f, p) =>
    let l := (List.finRange 64).filter (s.slotDone j f p c item gang)
    l.foldl (fun s i =>
      let s1 := s.modCore c fun k => { k with slots := vmod k.slots i fun sl => { sl with owners := sl.owners.filter (· ≠ r) } }
      if ((s1.cores[c]).slots[i]).owners.isEmpty && !s1.handedOn c i then s1.freeSlot c i else s1) s
  | _, _ => s

/-- R284: a handle goes back once no task of the command works on its tile, and nothing holds its slot (R254). -/
def State.releaseHandles (s : State) (c : Fin 32) (r : CmdRef) (l : List (BitVec 16)) : State :=
  l.foldl (fun s h =>
    let sl : Slot := (s.cores[handleCore h]).slots[handleSlot h]
    if ((s.cores[c]).tasks.any fun t => t.ref == r && t.queued.contains h) || sl.hold ≠ 0 || !sl.owners.isEmpty then s
    else s.freeSlot (handleCore h) (handleSlot h)) s

/-- A task whose item is done leaves its core; its range is clear and its sources are released. -/
def State.endTask (s : State) (n : Fin 32) (c : Fin 32) (t : Task) : State :=
  ((s.dropTask c t).releaseHandles c t.ref t.queued).releaseSlots n c t.ref t.item t.gang

/-! ### The end of a PRODUCT (R70, R277, R407) -/

/-- The status byte of a product that ends without fault (Table 11-4). -/
def Product.status (p : Product) : Byte := if !p.wrote then 0x03 else if !p.zeroed.isEmpty then 0x02 else 0x01

/-- The channel maxima that a command leaves: within a step those of several commands join (R75: "over the step just ended"; DEDUCED, log 50). -/
def State.chanStatWrite (s : State) (y : Desc) (m : List Word) (fresh : Bool) : List (Bool × Nat × List Byte) :=
  match y.ext with
  | some e =>
    if m.isEmpty then []
    else
      let old (k : Nat) : Word := BitVec.ofNat 32 (s.ext.near.field (e.chanstatBase + 4 * k) 4)
      [(false, e.chanstatBase, (m.zipIdx.map fun x => leBytes 4 (if fresh then x.1 else fpMax (old x.2) x.1).toNat).flatten)]
  | none => []

/-- The statistics folded into the destination's record. -/
def State.foldWrite (s : State) (f : InFlight) (p : Product) : List (Bool × Nat × List Byte) :=
  let ends := Stage.ends p.chain .narrow || Stage.ends p.chain .requant
  if p.scaleY.record = 0 || !ends then []
  else [(false, p.scaleY.record, scaleFold (s.near p.scaleY.record 128) (BitVec.ofNat 32 f.step) p.stats)]

/-- The write of the channel maxima of a producing command, and the state that remembers whose step they are. -/
def State.statWrites (s : State) (n : Fin 32) (y : Desc) (step : Nat) (m : List Word) : List (Bool × Nat × List Byte) × State :=
  let base := (y.ext.map (·.chanstatBase)).getD 0
  let fresh := match s.jobs[n] with | some j => !j.chanSteps.contains (base, step) | none => true
  let stat := s.chanStatWrite y m fresh
  (stat, if stat.isEmpty then s else s.modJob n fun j => { j with chanSteps := (j.chanSteps.filter fun x => x.1 ≠ base) ++ [(base, step)] })

/-- Writes that follow the settles; then the command completes. -/
def State.finishProduct (s : State) (n : Fin 32) (r : CmdRef) : State :=
  match s.liveProduct n r with
  | none => s
  | some (f, p) =>
    let (stat, s) := s.statWrites n p.descY f.step p.chanMax
    match State.settleWrites n r (stat ++ s.foldWrite f p) s with
    | (s1, some a) => s1.windowFault n r a
    | (s1, none) => s1.completeCmd n r p.status

/-- Completes a product all of whose items are settled. -/
def State.checkSettled (s : State) (n : Fin 32) (r : CmdRef) : State :=
  match s.liveProduct n r with
  | none => s
  | some (_, p) => if (List.range p.items).all p.settled.contains then s.finishProduct n r else s

/-! ### Settles -/

def State.countSat (s : State) (c : Fin 32) (k : Nat) : State :=
  s.modCore c fun x => { x with counters := { x.counters with accSat := satAddW x.counters.accSat k } }

/-- The listed sequence that a row of an item belongs to, in a roster body (R298, R306): by the heads of a binding, else the row. -/
def Product.sequenceOf (p : Product) (i t : Nat) : Nat :=
  match p.bindings.find? fun b => b.desc == p.descY.index || b.desc == p.descA.index || b.desc == p.descW.index with
  | some b => (p.itemPos i).batch / b.heads
  | none => if p.batch > 1 then (p.itemPos i).batch else t

/-- The settle bit of an item, and what the settle leaves in the product (R70, R286). -/
def State.noteSettle (s : State) (n : Fin 32) (c : Fin 32) (t : Task) (x : Settle) : State :=
  let s1 := s.modProduct n t.ref fun p =>
    { p with settled := insertNat t.item p.settled, stats := p.stats.join x.stats, chanMax := x.chanMax
             wrote := p.wrote || !x.writes.isEmpty }
  let s2 := s1.countSat c x.sats
  if x.nonfinite then s2.eventOnce n t.ref 0x0320 .core c.val else s2

/-- What the drain reads beside an item's rows goes out before the item settles (R63, R75, R133, R278): the state while it waits, none once all of it has
come. A word that no window of the job holds is not read: the write of it ends what it is for (R234, R306). -/
def State.drainAsk (s : State) (n : Fin 32) (c : Fin 32) (t : Task) (reads : List DrainRead) : Option State :=
  match s.jobs[n] with
  | none => some s
  | some j =>
    match reads.find? fun x => x.1.isNone && !j.desc.mayRead x.2.1 x.2.2.1 x.2.2.2 with
    | some x => some (s.windowFault n t.ref (j.desc.missRead x.2.1 x.2.2.1 x.2.2.2))
    | none =>
      let l := ((reads.map (·.2)).filter fun x => j.desc.mayRead x.1 x.2.1 x.2.2).eraseDups
      if l.isEmpty then none
      else if t.asked.isEmpty then some ((s.putTask c { t with asked := l }).fetchAll (.drain n t.ref t.item) l)
      else if s.reading (.drain n t.ref t.item) then some s
      else none

/-- The drain hands what settles to the mover in a result-class slot, where one is free: its handle passes through queue 6, the mover writes the slot out, and
it goes back through queue 7 (Table 10-5; log 131). -/
def State.drainOut (s : State) (c : Fin 32) : State :=
  match (s.cores[c]).hampers[(1 : Fin 16)] with
  | [] => s
  | h :: rest =>
    let s1 := s.modCore c fun k => { k with hampers := vmod (vset k.hampers 1 rest) 6 (· ++ [h]) }
    match (s1.cores[c]).hampers[(6 : Fin 16)] with
    | [] => s1
    | x :: left => (s1.modCore c fun k => { k with hampers := vset k.hampers 6 left }).freeSlot c (handleSlot x)

/-- R255: the result-class slot that the drain would write into is held. -/
def State.drainHeld (s : State) (c : Fin 32) : Bool :=
  ((s.cores[c]).hampers[(1 : Fin 16)]).head?.any fun h => ((s.cores[c]).slots[handleSlot h]).hold ≠ 0

/-- Items settle with the given writes: those of a task, and of `others` whose rows were joined with them. In a roster body a write outside the windows
ends the sequences it is for (R306). -/
def State.settleWith (s : State) (n : Fin 32) (f : InFlight) (c : Fin 32) (p : Product) (t : Task) (others : List (Fin 32 × Task)) (x : Settle) : State :=
  let finish (s : State) : State :=
    (others.foldl (fun s y => (s.modProduct n t.ref fun p => { p with settled := insertNat y.2.item p.settled }).endTask n y.1 y.2)
      ((s.noteSettle n c t x).endTask n c t)).checkSettled n t.ref
  if p.settled.contains t.item then s.failRef n t.ref 0x0106 .step .seqPair s.leadIx
  else if s.drainHeld c then s.failRef n t.ref 0x0209 .cmd .core c.val
  else
    match State.outWrites n f (x.writes.map fun w => { w with tokens := (w.tokens.map (p.sequenceOf t.item)).eraseDups }) (s.drainOut c) with
    | (s1, some a) => s1.windowFault n t.ref a
    | (s1, none) => finish s1

/-- Poison that reaches a settle ends the command, or in a roster body the sequences of its rows (R258, R306). -/
def State.poisonEnds (s : State) (n : Fin 32) (f : InFlight) (c : Fin 32) (p : Product) (t : Task) (bad : List Nat) : Option State :=
  if bad.isEmpty then some s
  else if t.ref.body.isSome then some (bad.foldl (fun s x => s.endSequence n f 0x0202 .core c.val (p.sequenceOf t.item x)) s)
  else none

/-- The task of an item, with its core. -/
def State.findTask (s : State) (r : CmdRef) (item : Nat) : Option (Fin 32 × Task) :=
  allCores.findSome? fun c => ((s.cores[c]).tasks.find? fun t => t.ref == r && t.item == item).map fun t => (c, t)

/-- In SPLIT4 a group of 64 columns lies in two items: the one that a ROTATE or a ROWDOT of the chain needs beside the given one (R73, R147). -/
def Product.otherHalf (p : Product) (i : Nat) : Option Nat :=
  let x := p.itemPos i
  let strip := x.strip ^^^ 1
  let u := if p.nOuter then strip * p.blocks + x.block else x.block * p.strips + strip
  let o := x.batch * (p.blocks * p.strips * p.parts) + u * p.parts + x.part
  if p.shape = .split4 && !p.accum && (p.chain.contains .rotate || p.chain.contains .rowdot) && strip < p.strips && !p.noop o then some o else none

/-- Rows of one token in columns that follow each other, put together. -/
def joinRows (l : List DRow) : List DRow :=
  (sortNat (l.map (·.t))).map fun t =>
    let rows := l.filter fun r => r.t = t
    { t := t, ints := (rows.map (·.ints)).flatten, vals := (rows.map (·.vals)).flatten, bad := rows.any (·.bad) }

/-- The side operands of several items. -/
def joinSides (a b : List Side) : List Side := (a.zip b).map fun x => { x.1 with tiles := x.1.tiles ++ x.2.tiles }

/-- The final rows of pass-through items that lie beside each other go through the drain and are written (R142). Saturation flags count where their rows
were formed (R58). -/
def State.settleRows (s : State) (n : Fin 32) (j : Job) (f : InFlight) (c : Fin 32) (p : Product) (t : Task) (others : List (Fin 32 × Task)) : State :=
  let v := s.seen f
  let all := (c, t) :: others
  let lo := (all.map fun x => (p.itemCols x.2.item).1).foldl Nat.min (p.itemCols t.item).1
  let sides := others.foldl (fun l x => joinSides l (s.sidesFor j p x.1 x.2)) (s.sidesFor j p c t)
  let conv (x : Fin 32 × Task) : List (DRow × Nat) := x.2.kept.map fun r => v.convertRow p ((p.itemCols x.2.item).1 + r.col) r
  let left := all.filter fun x => (p.itemCols x.2.item).1 = lo
  let right := all.filter fun x => (p.itemCols x.2.item).1 ≠ lo
  let rows := ((left ++ right).map conv).flatten
  let out := (joinRows (rows.map (·.1))).map (p.chainRow p.planned.n lo sides)
  let body := t.ref.body.isSome
  let reads := (v.itemSettle body j p t.item lo sides out).reads ++ (others.map fun x => p.columnReads x.2.item).flatten
  match s.drainAsk n c t reads with
  | some s1 => s1
  | none =>
    let met := v.drainBad reads (out.map fun x => x.1.t)
    let bad := (out.filter fun x => x.1.bad || met.contains x.1.t).map fun x => x.1.t
    let s0 := all.foldl (fun s x => s.countSat x.1 (((conv x).map (·.2)).sum)) s
    match s0.poisonEnds n f c p t bad with
    | none => s0.failRef n t.ref 0x0202 .step .core c.val
    | some s1 => s1.settleWith n f c p t others (v.itemSettle body j p t.item lo sides (out.filter fun x => !bad.contains x.1.t))

/-- A pass-through item is done: it settles, with its other half once both are done. -/
def State.settleItem (s : State) (n : Fin 32) (j : Job) (f : InFlight) (c : Fin 32) (p : Product) (t : Task) : State :=
  match p.otherHalf t.item with
  | none => s.settleRows n j f c p t []
  | some o =>
    match s.findTask t.ref o with
    | some (d, u) =>
      if !u.done then s
      else if u.asked.isEmpty then s.settleRows n j f c p t [(d, u)]
      else s.settleRows n j f d p u [(c, t)]
    | none => s

/-- The read-out of a unit (R133). -/
def State.settleUnit (s : State) (n : Fin 32) (j : Job) (f : InFlight) (c : Fin 32) (p : Product) (t : Task) : State :=
  let v := s.seen f
  let sides := s.sidesFor j p c t
  let rows := p.readOut (s.facets[facetIx c t.accFacet]).acc t p.planned.n sides
  let body := t.ref.body.isSome
  let reads := (v.unitSettle body j f p c t rows).reads
  match s.drainAsk n c t reads with
  | some s1 => s1
  | none =>
    let met := v.drainBad reads (rows.map (·.t))
    let bad := (rows.filter fun x => x.row.bad || met.contains x.t).map (·.t)
    match s.poisonEnds n f c p t bad with
    | none => s.failRef n t.ref 0x0202 .step .core c.val
    | some s1 =>
      let s2 := s1.modFacet (facetIx c t.accFacet) fun g => { g with residueRun := none }
      s2.settleWith n f c p t [] (v.unitSettle body j f p c t (rows.filter fun x => !bad.contains x.t))

/-- Items whose drain reads have all come settle. -/
def State.settleWaiting (s : State) (n : Fin 32) : State :=
  let l := (allCores.map fun c => ((s.cores[c]).tasks.filter fun t => t.done && !t.asked.isEmpty).map fun t => (c, t.ref, t.item)).flatten
  l.foldl (fun s x =>
    match s.jobs[n], s.liveProduct n x.2.1, (s.cores[x.1]).tasks.find? fun t => t.ref == x.2.1 && t.item == x.2.2 with
    | some j, some (f, p), some t =>
      if j.ended || !s.ready || s.resetQuiescing || s.unitHeld .core x.1.val then s
      else if p.accum then s.settleUnit n j f x.1 p t else s.settleItem n j f x.1 p t
    | _, _, _ => s) s

/-! ### Detections in the array (R97 to R99, R135, R331 to R335, Table 14-3) -/

/-- Rows of a pass that one of its facets suppresses: counted from the item's first row. `facets` are those that the pass uses (R97, R99). -/
def Detection.suppresses (p : Product) (facets : List (Fin 4)) (rows : List Nat) : Detection → Option (Fin 4 × Half × List Nat)
  | .suppressed f l =>
    let hit := rows.filter l.contains
    if facets.contains f && !hit.isEmpty then some (f, 0x0301, hit) else none
  | .dual f l =>
    let hit := rows.filter l.contains
    if p.dual && !hit.isEmpty then some (f, 0x0302, hit) else none
  | _ => none

/-- Rows that the check columns find wrong (R96, R97): each facet with its rows, counted from the first of their item. -/
def checkHits (first : Nat) (rows : List ResultRow) : List (Fin 4 × Half × List Nat) :=
  (List.finRange 4).filterMap fun f =>
    let bad := rows.filter fun r => r.checks.any fun k => k.facet = f && k.data ≠ k.check
    if bad.isEmpty then none else some (f, 0x0301, bad.map (·.token - first))

/-- In SPLIT4 the two column fields of a band share one comparison (R96): the sums of both fields of a row meet. `others` are the rows of the band's other field
that are in flight beside those given; a row that one field alone streams meets a bubble there (R102). -/
def bandHits (first : Nat) (rows : List ResultRow) (otherFirst : Nat) (others : List ResultRow) : List (Fin 4 × Half × List Nat) :=
  let slots := sortNat ((rows.map fun r => r.token - first) ++ others.map fun r => r.token - otherFirst)
  let at_ (f : Fin 4) (k : Nat) : List RowCheck :=
    (((rows.filter fun r => r.token - first = k) ++ others.filter fun r => r.token - otherFirst = k).map (·.checks)).flatten.filter fun x => x.facet = f
  let wrong (f : Fin 4) (k : Nat) : Bool :=
    let l := at_ f k
    l.foldl (fun b x => b + x.data) (0 : BitVec 86) ≠ l.foldl (fun b x => b + x.check) (0 : BitVec 86)
  (List.finRange 4).filterMap fun f =>
    let bad := slots.filter (wrong f)
    if bad.isEmpty then none else some (f, 0x0301, bad)

/-- An immediate polish is asked of a facet (R335). -/
def State.askPolish (s : State) (g : Fin 128) : State := s.modFacet g fun f => { f with immediate := true }

/-- The verdict of a facet that suppressed rows: its counters, its event, and after more than 8 such passes in a polish cycle an
immediate polish. -/
def State.noteSuppressed (s : State) (c : Fin 32) (f : InFlight) (x : Fin 4 × Half × List Nat) : State :=
  let g := facetIx c x.1
  let s1 := s.modFacet g fun k =>
    { k with
      suppressedPasses := k.suppressedPasses + 1
      counters :=
        if x.2.1 = 0x0301 then { k.counters with checkMismatch := satInc k.counters.checkMismatch }
        else { k.counters with dualMismatch := satInc k.counters.dualMismatch } }
  let detail := BitVec.ofNat 32 (x.2.2.length % 8192 + 65536 * ((x.2.2.head?.getD 0) % 8192))
  let s2 := s1.cmdEvent x.2.1 .facet g.val f detail
  if (s2.facets[g]).suppressedPasses > 8 then s2.askPolish g else s2

/-- The additions of the accumulate stage of a facet into the tile rows given, with the words at which its copies disagreed: each such addition is repeated;
three in a row at one word fence the facet (Table 14-3). A word without a disagreement, in a row added to, ends its run. -/
def State.accErrors (s : State) (c : Fin 32) (f : InFlight) (fx : Fin 4) (rows l : List Nat) : State :=
  let g := facetIx c fx
  let old := (s.facets[g]).accRun
  let again := l.foldl (fun acc w => runsNext acc [w] ++ acc.filter fun x => x.1 ≠ w) old
  let runs := again.filter fun x => l.contains x.1 || !rows.contains (x.1 / 64)
  let s1 := s.modFacet g fun k =>
    { k with accRun := runs, counters := { k.counters with accStage := satAddW k.counters.accStage l.length } }
  let s2 := l.foldl (fun s _ => s.cmdEvent 0x0314 .facet g.val f 0) s1
  if permanent runs then s2.fenceFacet g (some f) 0 2 else s2

/-- A row that a drain takes, with the lanes that disagreed: three rows in a row on one lane fence the core (Table 14-3). -/
def State.drainRow (s : State) (c : Fin 32) (f : InFlight) (lanes : List Nat) : State :=
  let runs := runsNext (s.cores[c]).drainRun lanes
  let s1 := s.modCore c fun k =>
    { k with drainRun := runs, counters := { k.counters with drainCheck := satAddW k.counters.drainCheck lanes.length } }
  let s2 := lanes.foldl (fun s _ => s.cmdEvent 0x0305 .core c.val f 0) s1
  if permanent runs then s2.fenceCore c (some f) 3 else s2

/-- The rows that a drain takes, in order. `l` are the disagreements, by row and lane. -/
def State.drainRows (s : State) (c : Fin 32) (f : InFlight) (l : List (Nat × Nat)) (rows : List Nat) : State :=
  rows.foldl (fun s r => s.drainRow c f ((l.filter fun x => x.1 = r).map (·.2)).eraseDups) s

/-- A unit restarts from its first pass: its range is cleared, its sources are given up to be read again from tier 1, and the
participants combined into it go back (R135). A handed slot with a copy of external data is given up too; one that a GATHER filled has no other
source and stays (DEDUCED, log 87). -/
def State.restartUnit (s : State) (n : Fin 32) (c : Fin 32) (t : Task) : State :=
  let g := facetIx c t.accFacet
  let tagged (h : BitVec 16) : Bool := ((s.cores[handleCore h]).slots[handleSlot h]).tiles.any (!·.built)
  let s1 := t.held.foldl (fun s x => s.unhold x.1 x.2) s
  let s2 := s1.modFacet g fun f => f.clearRange t.accBase t.accRows
  let spoil (c : Fin 32) (i : Fin 64) (sl : Slot) : Slot :=
    if t.held.contains (c, i) then { sl with tiles := sl.tiles.map fun y => { y with valid := false } } else sl
  let s3 : State := { s2 with cores := Vector.ofFn fun c => let k := s2.cores[c]; { k with slots := Vector.ofFn fun i => spoil c i k.slots[i] } }
  let s4 := s3.modProduct n t.ref fun p =>
    { p with returned := p.returned ++ t.arrived, settled := p.settled.filter (!t.arrived.contains ·)
             groupCores := p.groupCores.filter (!t.arrived.contains ·.1) }
  let t1 : Task := { t with passes := none, nextPass := 0, pass := none, following := none, kept := [], replay := [], unfed := [], replays := 0
                            done := false, level := 0, arrived := [], poison := [], held := [], queued := t.queued.filter (!tagged ·), asked := [] }
  ((s4.putTask c t1).releaseHandles c t.ref (t.queued.filter tagged)).releaseSlots n c t.ref t.item t.gang

/-- A residue mismatch at a tile row; in three consecutive units at one row it fences the facet. -/
def State.residueError (s : State) (n : Fin 32) (c : Fin 32) (f : InFlight) (t : Task) (row : Nat) : State :=
  let g := facetIx c t.accFacet
  let run := runNext (s.facets[g]).residueRun row
  let s1 := s.modFacet g fun k =>
    { k with residueRun := some run, counters := { k.counters with residue := satInc k.counters.residue } }
  let s2 := (s1.cmdEvent 0x0304 .facet g.val f 0).restartUnit n c t
  if run.2 ≥ 3 then s2.fenceFacet g (some f) 0 1 else s2

def Detection.residueAt (t : Task) : Detection → Option Nat
  | .residue f row => if f = t.accFacet && t.accBase ≤ row && row < t.accBase + t.accRows then some row else none
  | _ => none

/-- The row and the lane of a disagreement in the drain. -/
def Detection.laneAt : Detection → Option (Nat × Nat)
  | .drainLane r l => some (r, l)
  | _ => none

def Detection.accAt (t : Task) : Detection → Option Nat
  | .accStage f w => if f = t.accFacet && t.accBase ≤ w / 64 && w / 64 < t.accBase + t.accRows then some w else none
  | _ => none

/-! ### Clean rows -/

/-- Clean rows of a pass that is not the last of its chain become carry rows, in place (R90, R91). -/
def State.writeCarry (s : State) (c : Fin 32) (p : Product) (t : Task) (rows : List ResultRow) : State :=
  let first := (p.itemRows t.item).1
  let put (m : Mem) (r : ResultRow) : Mem :=
    let l := r.sums.zip r.tags
    (List.range (ceilDiv r.sums.length 64)).foldl (fun m q =>
      m.writeBytes (t.carryAddr p (r.token - first) (r.col / 64 + q)) (carryBytes ((l.drop (64 * q)).take 64))) m
  s.modCore c fun k => { k with sb := rows.foldl put k.sb }

/-- Clean rows of the accumulator class are added into the unit's range (R131). The first tile row with a word that its reader finds wrong is answered
(R332, R135). -/
def State.addRows (s : State) (c : Fin 32) (p : Product) (t : Task) (rows : List ResultRow) : State × Option Nat :=
  let first := (p.itemRows t.item).1
  let g := facetIx c t.accFacet
  let at_ (r : ResultRow) : Nat := t.accBase + (r.token - first)
  match rows.findSome? fun r => (s.facets[g]).badRow (at_ r) 1 r.sums.length with
  | some row => (s, some row)
  | none =>
    let x := rows.foldl (fun (x : Facet × Nat) r =>
      let y := p.accumulate x.1 (at_ r) r
      (y.1, x.2 + y.2)) (s.facets[g], 0)
    ((s.modFacet g fun _ => x.1).countSat c x.2, none)

/-- Inserts a row in token order. -/
def insertRow (r : ResultRow) : List ResultRow → List ResultRow
  | [] => [r]
  | x :: l => if r.token < x.token then r :: x :: l else x :: insertRow r l

/-- What the clean rows of a pass give: the state, the task with the rows that wait and the poison seen, and a tile row whose words are wrong. -/
def State.takeRows (s : State) (c : Fin 32) (p : Product) (t : Task) (last : Bool) (rows : List ResultRow) : (State × Option Nat) × Task :=
  let t1 : Task := { t with poison := sortNat (t.poison ++ (rows.filter (·.poisoned)).map (·.token)) }
  if p.accum then (s.addRows c p t rows, t1)
  else if last then ((s, none), { t1 with kept := rows.foldl (fun l r => insertRow r l) t.kept })
  else ((s.writeCarry c p t rows, none), t1)

/-! ### Split units (R136 to R139) -/

/-- The tree's children of participant q: their levels. -/
def treeChildren (k q : Nat) : List Nat := (List.range 6).filter fun m => q % 2 ^ (m + 1) = 0 && q + 2 ^ m < k

/-- The participant into whose range q's partial goes. -/
def Product.receiver (p : Product) (q : Nat) : Nat :=
  if !p.repro then 0
  else
    match (List.range 6).find? fun m => q / 2 ^ m % 2 = 1 with
    | some m => q - 2 ^ m
    | none => 0

/-- A participant has everything that goes into its range. -/
def Product.rangeFull (p : Product) (t : Task) : Bool :=
  let q := (p.itemPos t.item).part
  t.done && t.level = (if p.repro then (treeChildren p.parts q).length else if q = 0 then p.parts - 1 else 0)

/-- A unit whose passes are all clean settles, once its range holds the partials that it waits for. A wrong residue or a disagreement of a drain lane
at the read-out restarts it (R135, R333). -/
def State.unitDone (s : State) (n : Fin 32) (j : Job) (f : InFlight) (c : Fin 32) (p : Product) (t : Task) (lanes : List (Nat × Nat)) : State :=
  let t1 : Task := { t with done := true }
  let s1 := s.putTask c t1
  if (p.itemPos t.item).part ≠ 0 || !p.rangeFull t1 then s1
  else
    match (s1.facets[facetIx c t.accFacet]).badRow t.accBase t.accRows 64 with
    | some row => s1.residueError n c f t1 row
    | none =>
      let s2 := s1.drainRows c f lanes (List.range t.accRows)
      if lanes.all (t.accRows ≤ ·.1) then s2.settleUnit n j f c p t1
      else if (s2.cores[c]).tasks.any fun u => u.ref == t.ref && u.item == t.item then s2.restartUnit n c t1
      else s2

/-! ### PASS_VERDICT -/

/-- The replay limit is reached: the item goes back, and the facets that reported are polished at once (R335). -/
def State.replayLimit (s : State) (n : Fin 32) (c : Fin 32) (f : InFlight) (t : Task) (facets : List (Fin 4)) : State :=
  let g := facetIx c (facets.head?.getD 0)
  let s1 := (s.cmdEvent 0x0309 .facet g.val f 0).modFacet g fun k =>
    { k with counters := { k.counters with replayLimit := satInc k.counters.replayLimit } }
  let s2 := ((s1.dropTask c t).returnItem n t).releaseSlots n c t.ref t.item t.gang
  facets.foldl (fun s x => s.askPolish (facetIx c x)) s2

/-- The detections of a pass: suppressed rows, the rows that the drain takes, and the accumulate stage, whose additions go into the tile rows `added`. -/
def State.noteDetections (s : State) (f : InFlight) (c : Fin 32) (p : Product) (t : Task) (drained added : List Nat) (hits : List (Fin 4 × Half × List Nat))
    (det : List Detection) : State :=
  let s1 := hits.foldl (fun s x => s.noteSuppressed c f x) s
  let s2 := s1.drainRows c f (det.filterMap Detection.laneAt) drained
  (if p.accum then s2.accErrors c f t.accFacet added (det.filterMap (Detection.accAt t)) else s2).reportsInOrder s

/-- The pass that waits behind one with a clean verdict goes on: its rows are formed; where feeding has stopped, only those of the tokens fed (R89). -/
def State.promote (s : State) (j : Job) (f : InFlight) (c : Fin 32) (p : Product) (t : Task) (k : Nat) : State :=
  match (t.passes.getD [])[k]? with
  | none => s.putTask c t
  | some q =>
    let (s1, rows) := s.runPass j p c t k q (p.itemTokens (s.goneIn j p c t) f.step t.item)
    let pass : Pass := { number := k, rows := rows, replays := 0, unfed := [] }
    let t1 : Task := { t with pass := some pass, following := none }
    if s.mayWork f then s1.putTask c t1 else (s1.putTask c t1).cutPass c t1 pass

/-- A pass all of whose rows are clean: the pass that follows it goes on, or its item is done. -/
def State.passClean (s : State) (n : Fin 32) (j : Job) (f : InFlight) (c : Fin 32) (p : Product) (t : Task) (number : Nat) (lanes : List (Nat × Nat)) :
    State :=
  if number + 1 < (t.passes.getD []).length then
    match t.following with
    | some k => s.promote j f c p { t with nextPass := number + 1 } k
    | none => s.putTask c { t with nextPass := number + 1 }
  else if p.accum then s.unitDone n j f c p t lanes
  else
    let t1 : Task := { t with done := true }
    (s.putTask c t1).settleItem n j f c p t1

/-- A pass with rows to replay, or tokens still to be fed. `bad` are the rows suppressed, `again` those of a replay that were not fed; up to the limit
(R98, R335). A pass that waited behind it starts anew (R132). -/
def State.passAgain (s : State) (n : Fin 32) (f : InFlight) (c : Fin 32) (t : Task) (hits : List (Fin 4 × Half × List Nat)) (failed : Nat)
    (bad again rest : List Nat) : State :=
  if !bad.isEmpty && failed ≥ 3 then s.replayLimit n c f t ((List.finRange 4).filter fun x => hits.any fun h => h.1 = x)
  else
    s.putTask c { t with following := none, replay := sortNat (bad ++ again), unfed := rest
                         replays := if bad.isEmpty && again.isEmpty then 0 else failed }

/-- A pass of a task has its verdicts: `hits` are the rows suppressed, `det` what else was detected. `told` tells that the facets have reported the rows. -/
def State.verdictWith (s : State) (n : Fin 32) (j : Job) (f : InFlight) (c : Fin 32) (p : Product) (t : Task) (q : Pass)
    (hits : List (Fin 4 × Half × List Nat)) (det : List Detection) (told : Bool) : State :=
  let first := (p.itemRows t.item).1
  let last : Bool := (((t.passes.getD [])[q.number]?).map (·.last)).getD true
  let rel := q.rows.map fun r => r.token - first
  let lanes := det.filterMap Detection.laneAt
  let drained := if last && !p.accum then rel else []
  let added := (rel.filter fun r => !(hits.any fun x => x.2.2.contains r)).map (t.accBase + ·)
  let s1 := s.noteDetections f c p t drained added (if told then [] else hits) det
  if !((s1.cores[c]).tasks.any fun u => u.ref == t.ref && u.item == t.item) then s1
  else
    let wrong := ((hits.map fun x => x.2.2).flatten.filter rel.contains) ++ if drained.isEmpty then [] else (lanes.map (·.1)).filter drained.contains
    let bad := sortNat wrong
    let y := s1.takeRows c p t last (q.rows.filter fun r => !bad.contains (r.token - first))
    match y.1.2 with
    | some row => y.1.1.residueError n c f y.2 row
    | none =>
      let replaying := !t.replay.isEmpty
      let again := if replaying then q.unfed else []
      let rest := if replaying then t.unfed else q.unfed
      let t1 : Task := { y.2 with pass := none }
      if bad.isEmpty && again.isEmpty && rest.isEmpty then
        y.1.1.passClean n j f c p { t1 with replay := [], unfed := [], replays := 0 } q.number lanes
      else y.1.1.passAgain n f c t1 hits (q.replays + boolNat (replaying && !bad.isEmpty)) (bad.map (· + first)) again rest

/-- The pass in flight of the other column field of a SPLIT4 band (R96, R102). -/
def State.bandFellow (s : State) (c : Fin 32) (p : Product) (t : Task) : Option (Task × Pass) :=
  if p.shape = .split4 && !p.accum then
    (s.cores[c]).tasks.findSome? fun u =>
      if u.ref == t.ref && u.item == t.item ^^^ 1 && u.gang == t.gang then u.pass.map fun q => (u, q) else none
  else none

/-- The pass of a task has its verdicts; in SPLIT4 those of its band, which are one for both column fields. -/
def State.verdict (s : State) (n : Fin 32) (j : Job) (f : InFlight) (c : Fin 32) (p : Product) (t : Task) (q : Pass) (det : List Detection) : State :=
  let first := (p.itemRows t.item).1
  let rel := q.rows.map fun r => r.token - first
  let facets := s.passFacets c p t.gang
  match s.bandFellow c p t with
  | none => s.verdictWith n j f c p t q (det.filterMap (Detection.suppresses p facets rel) ++ checkHits first q.rows) det false
  | some (u, qu) =>
    let ufirst := (p.itemRows u.item).1
    let urel := qu.rows.map fun r => r.token - ufirst
    let hits := det.filterMap (Detection.suppresses p facets (rel ++ urel)) ++ bandHits first q.rows ufirst qu.rows
    let s1 := s.verdictWith n j f c p t q hits det false
    match s1.jobs[n], s1.liveProduct n f.ref, (s1.cores[c]).tasks.find? fun x => x.ref == u.ref && x.item == u.item with
    | some j1, some (f1, p1), some u1 =>
      match u1.pass with
      | some q1 => s1.verdictWith n j1 f1 c p1 u1 q1 hits [] true
      | none => s1
    | _, _, _ => s1

/-! ### Partials of a split unit -/

/-- A range is there to receive partials: one that no pass has opened yet opens now. -/
def State.openRange (s : State) (c : Fin 32) (p : Product) (t : Task) : Option Task :=
  let n := (p.itemRows t.item).2
  if t.accRows > 0 then some t else (s.accFree c t n).map fun b => { t with accBase := b, accRows := n }

/-- The receiver of a partial can combine it now: in the tree each level waits for the one below (R139). -/
def Product.accepts (p : Product) (q : Nat) (t : Task) : Bool :=
  !p.repro || (t.done && (treeChildren p.parts (p.itemPos t.item).part)[t.level]? == (List.range 6).find? fun m => q / 2 ^ m % 2 = 1)

/-- A participant's range is combined into its receiver's, and a receiver that owns the unit and is full settles. `lanes` are disagreements of the
owner's drain. -/
def State.combineInto (s : State) (n : Fin 32) (j : Job) (f : InFlight) (p : Product) (cq ci : Fin 32) (tq t : Task) (lanes : List (Nat × Nat)) : State :=
  let g := facetIx ci t.accFacet
  let x := p.combineRange (s.facets[g]) (s.facets[facetIx cq tq.accFacet]).acc t.accBase tq.accBase t.accRows
  let s1 := (s.modFacet g fun _ => x.1).countSat ci x.2
  let t1 : Task := { t with level := t.level + 1, arrived := t.arrived ++ tq.item :: tq.arrived, poison := sortNat (t.poison ++ tq.poison) }
  let s2 := s1.putTask ci t1
  let s3 := s2.modProduct n t.ref fun p => { p with settled := insertNat tq.item p.settled }
  let s4 := (s3.modFacet (facetIx cq tq.accFacet) fun k => { k with residueRun := none }).endTask n cq tq
  match s4.liveProduct n t.ref with
  | none => s4
  | some (_, p1) => if t1.done then s4.unitDone n j f ci p1 t1 lanes else s4

/-! ### RT_DEADLINE_MISS (R256) -/

/-- A tile of an operand that the next pass of a task of the command on a core needs is not resident. -/
def State.lateOn (s : State) (j : Job) (f : InFlight) (p : Product) (c : Fin 32) (role : OperandRole) : Bool :=
  (s.cores[c]).tasks.any fun t => t.ref == f.ref && t.pass.isNone && !t.done &&
    !s.needsMet c p t ((s.passNeeds j f p c t).filter fun x => p.operandOf x.role = role)

/-- The alternate takes the place of an operand for the rest of the command. -/
def Product.useAlt (p : Product) (role : OperandRole) (d : Desc) : Product :=
  match role with
  | .streamed => { p with descA := d }
  | .stationary | .index => { p with descW := d }
  | .prologue => { p with descPro := some d }
  | .side i => { p with sides := p.sides.set i d }

/-- RT_DEADLINE_MISS: the first operand whose deadline is reached and whose next tile is late on this core. -/
def execRtDeadlineMiss (core : Fin 32) (cmd : CmdRef) (s : State) : Host.Outcome State Fault Refusal :=
  match s.running with
  | none => .next s
  | some (n, j) =>
    match s.liveProduct n cmd with
    | none => .next s
    | some (f, p) =>
      match p.deadline.find? fun x => s.reached x.2 && s.lateOn j f p core x.1 with
      | none => .next s
      | some (role, _) =>
        if !s.ready || j.ended || s.resetQuiescing || s.unitHeld .core core.val then .next s
        else
          let fb : Option Fallback := (p.roleDesc role).map fun d => d.fallback
          let alt := (p.alts.find? fun x => x.1 = role).map (·.2)
          let code : Half := if fb = some .none then 0x0802 else 0x0801
          let s1 := (s.cmdEvent code .core core.val f 0).modCore core fun k =>
            { k with counters := { k.counters with deadlineMiss := satInc k.counters.deadlineMiss } }
          let s2 := s1.modProduct n cmd fun (p : Product) =>
            let p1 := { p with deadline := p.deadline.filter fun x => x.1 ≠ role }
            match fb, alt with
            | some .alt, some d => p1.useAlt role d
            | some .skip, _ => { p1 with zeroed := p1.zeroed ++ [role] }
            | _, _ => p1
          if cmd.body.isSome && fb ≠ some .none then
            .next (s2.modJob n fun j => { j with roster := j.roster.map fun ro => { ro with fellBack := true } })
          else .next s2

/-! ### PRODUCT -/

/-- Bytes of tier 1 that a tensor's writes may touch over the batch. -/
def Desc.ranges (d : Desc) (batch : Nat) : List (Nat × Nat) :=
  if d.far then [] else [(d.base, (batch - 1) * d.itemStride * 4096 + d.span)]

/-- The tier-1 range of the channel maxima of a tensor (R75). -/
def Desc.statRange (d : Desc) : List (Nat × Nat) :=
  match d.ext with | some e => if d.chanStats then [(e.chanstatBase, 4 * d.cols)] else [] | none => []

/-- Tier-1 ranges that a PRODUCT may write (R208). -/
def Product.writeRanges (p : Product) (mr : List Byte) : List (Nat × Nat) :=
  let y := p.descY
  let outs := ((p.sideUses.zip p.sides).filter fun x => match x.1 with | (_, .planeOut) => true | (.rowdot, .table) => true | _ => false).map (·.2)
  let tiles := y.tileCount
  let comp := if p.comp then [(u64 mr 0x60, tiles * (8 * (8 - y.layout.perCol) * 512))] else []
  let cand := if p.cand then [(u64 mr 0x68, tiles * 32768), (u64 mr 0x70, tiles * 16)] else []
  (y.ranges p.batch ++ (match p.descSat with | some d => d.ranges p.batch | none => []) ++ (outs.map fun d => d.ranges p.batch).flatten)
    ++ y.statRange ++ comp ++ cand ++ if p.scaleY.record = 0 then [] else [(p.scaleY.record, 128)]

/-- PRODUCT issues: its scale is fixed (R69), its events are recorded, and a command without an item to run ends at once (R277). -/
def State.startProduct (s : State) (x : Next) (i : ProdIssue) : State :=
  let p := i.prod
  let mr := if p.descY.sparse && p.descY.maskRec ≠ 0 then s.near p.descY.maskRec 512 else []
  let s1 := (s.issueNext x { x.flight with prod := some p, writes := p.writeRanges mr }).noteBelow x.n p.scaleY.record (BitVec.ofNat 32 x.step) p.below
  let s2 := if i.clamped then s1.eventOnce x.n x.ref 0x0321 .seqPair s.leadIx else s1
  let s3 := if i.aligned then s2 else s2.eventOnce x.n x.ref 0x0203 .seqPair s.leadIx
  let write := match i.record with | some b => [(false, p.scaleY.record, b)] | none => []
  match State.settleWrites x.n x.ref write s3 with
  | (s4, some a) => s4.windowFault x.n x.ref a
  | (s4, none) =>
    let s5 := if p.aSrc = 2 then s4.feedQueues x.n ⟨p.aQueue % 16, by omega⟩ else s4
    s5.checkSettled x.n x.ref

/-- PRODUCT. -/
def execProduct (s : State) : Host.Outcome State Fault Refusal :=
  .next (s.issueWith [0x10] State.checkProduct fun x i => s.startProduct x i)

end Sys2Proof.Machine
end

