-- ==== Sys2Proof/Machine/Settle.lean ====
section
/-! DEFINITION. SETTLE (Table 11-15, R289): the words of a WIDE tensor converted, run through a chain and written, tile by tile. -/

namespace Sys2Proof.Machine

/-- The checks of a SETTLE. A sparse source is a gradient plane (R133), which settles element by element into an FP32 plane of the
same pattern. -/
def State.checkSettle (s : State) (x : Next) : Except Half SettlePlan := do
  let b := x.raw
  let j := x.job
  x.check 0x19 []
  need (u8 b 0x18 < 2 && (List.range 4).all fun i => u16 b (0x10 + 2 * i) / 4096 == 0) 0x0102
  need (u16 b 8 != 0xFFFF && u16 b 0xA != 0xFFFF) 0x0103
  let src ← s.operand j x.ref (u16 b 8)
  let dst ← s.operand j x.ref (u16 b 0xA)
  need (!(dst.sparse && dst.form.isCode)) 0x0115
  need (src.form == .wide && !src.far && src.layout != .rows && dst.layout == src.layout) 0x0103
  let float := dst.form != .int32
  let chain ← readStages true float true ((List.range 4).map fun i => u16 b (0x10 + 2 * i)) [u16 b 0xC, u16 b 0xE]
  let sides ← s.readSides x 0xC (sideCount chain) (sideCount chain)
  need (if Stage.ends chain .narrow then dst.form.isCode else dst.form == .fp32 || dst.form == .int32) 0x0103
  need (!src.sparse || chain.isEmpty) 0x0118
  need (src.rows == dst.rows && src.cols == dst.cols) 0x0108
  (chainRoles chain).zip sides |>.forM fun r => sideOk dst.rows dst.cols r.1.2 r.2
  extOk dst
  if src.sparse then sparseShapeOk src
  if dst.sparse then sparseShapeOk dst
  need ((src :: dst :: sides).all Desc.tilesOk) 0x0208
  needIf (!j.desc.exclusive) (!dst.far) 0x0205
  let (sy, rec_, clamped) ← s.destScale j.desc chain dst (BitVec.ofNat 32 x.step)
  let scales ← sides.mapM fun d => s.scaleOf j.desc d
  (sides.zip scales).forM fun x => zpOk true x.2.form x.1
  zpOk true sy.form dst
  return { src := src, dst := dst, sides := sides.zip scales, chain := chain, scale := sy, record := rec_, clamped := clamped
           aligned := (src :: dst :: sides).all Desc.aligned, clear := bit (u8 b 0x18) 0, below := s.belowOf j sy.record (BitVec.ofNat 32 x.step) }

/-- Whether element (r, c) of a dense tensor is poisoned: its row in its tile (R257). -/
def State.elemBad (s : State) (d : Desc) (r c : Nat) : Bool :=
  if (s.ext.poison d.far).isEmpty then false
  else
    let x := d.tileSrc 0 (r / 64 * d.across + c / 64) false
    (s.ext.copyPoison (copyOf x 0 0 false none)).getLsbD (r % 64)

/-- The chain of a SETTLE on one element, with the poison of its side operands. -/
def State.settleChain (s : State) (p : SettlePlan) (r c : Nat) (x : Word) : Word × Bool :=
  (sideStarts p.chain 0).foldl (fun (y : Word × Bool) st =>
    match st.1, p.sides[st.2]? with
    | .add, some (d, sc) => (fpAdd y.1 (sc.value d.zp (s.extElem d 0 r c)), y.2 || s.elemBad d r c)
    | .mul, some (d, sc) => (fpMul y.1 (sc.value d.zp (s.extElem d 0 r c)), y.2 || s.elemBad d r c)
    | _, _ => y) (x, false)

/-- A destination with a zero point is an activation (DEDUCED, log 48). -/
def SettlePlan.isActivation (p : SettlePlan) : Bool := p.dst.zpMode != 0

/-- An element settled: its value before smoothing, the value and the code that go on, and what its quantization says. -/
structure SettledElem where
  r : Nat
  c : Nat
  raw : Word
  value : Word
  code : Nat
  quant : Option Quant
  bad : Bool
deriving DecidableEq, Repr

/-- An element of a SETTLE (R289, R65, R75). DEDUCED (log 100): the flag of an integer word goes nowhere, as a SETTLE names no saturation plane. -/
def State.settleElem (s : State) (p : SettlePlan) (r c : Nat) : SettledElem :=
  let w := accOf (BitVec.ofNat 64 (s.extElem p.src 0 r c))
  let bad := s.elemBad p.src r c
  if p.dst.form = .int32 then { r := r, c := c, raw := w.v, value := w.v, code := w.v.toNat, quant := none, bad := bad }
  else
    let y := s.settleChain p r c (accRead w)
    let v := if p.dst.smooth then fpMul y.1 (fpTwoPow (-(s.smoothOf p.dst c))) else y.1
    if Stage.ends p.chain .narrow then
      let act := p.isActivation
      let z : Int := if act && p.scale.form.isInt then p.dst.zp else 0
      let q := quantize p.scale.form act z p.scale.rscale v
      { r := r, c := c, raw := y.1, value := v, code := q.code, quant := some q, bad := bad || y.2 }
    else { r := r, c := c, raw := y.1, value := v, code := v.toNat, quant := none, bad := bad || y.2 }

/-- The elements of tile `k`, within the tensor's rows and columns (R278). -/
def State.settleTile (s : State) (p : SettlePlan) (k : Nat) : List SettledElem :=
  let r0 := k / p.dst.across * 64
  let c0 := k % p.dst.across * 64
  ((rangeFrom r0 (Nat.min 64 (p.dst.rows - r0))).map fun r =>
    (rangeFrom c0 (Nat.min 64 (p.dst.cols - c0))).map fun c => s.settleElem p r c).flatten

def SettleSum.add (below : Word) (x : SettleSum) (l : List SettledElem) : SettleSum :=
  { stats := l.foldl (fun st e => match e.quant with | some q => st.count e.value q below | none => st) x.stats
    chanMax := l.foldl (fun m e => match m[e.c]? with | some v => m.set e.c (fpMax v (fpAbs e.raw)) | none => m) x.chanMax }

/-- The elements of tile `k` that lie inside the tensor. -/
def Desc.elemsOf (d : Desc) (k : Nat) : List OutElem :=
  let r0 := k / d.across * 64
  let c0 := k % d.across * 64
  ((rangeFrom r0 (Nat.min 64 (d.rows - r0))).map fun r => (rangeFrom c0 (Nat.min 64 (d.cols - c0))).map fun c => ({ t := r, r := r, c := c, v := 0 } : OutElem)).flatten

/-- What the drain reads beside a tile: of a smoothed destination the exponents of its columns (R75), and the words that its elements fill only in part
(R278). -/
def SettlePlan.drainReads (p : SettlePlan) (k : Nat) : List DrainRead :=
  (match p.dst.ext with
    | some e => if p.dst.smooth then [(none, false, e.smoothBase + k % p.dst.across * 64, Nat.min 64 (p.dst.cols - k % p.dst.across * 64))] else []
    | none => []) ++ if p.src.sparse then [] else p.dst.partReads 0 (p.dst.elemsOf k)

/-- What a tile reads: the source tile, those of the side operands, and what the drain reads beside them. -/
def SettlePlan.reads (p : SettlePlan) (k : Nat) : List InRead :=
  p.src.tileRead k :: (p.sides.map fun d => d.1.tileRead k)
    ++ (p.drainReads k).map fun x => { far := x.2.1, addr := x.2.2.1, size := x.2.2.2, unit := 0 }

/-- A range cut at the multiples of `unit`, where that is not 0 (R241). -/
def unitPieces (unit : Nat) : Nat → Nat → Nat → List (Nat × Nat)
  | 0, _, _ => []
  | fuel + 1, a, n =>
    if n = 0 then []
    else if unit = 0 then [(a, n)]
    else let len := Nat.min n ((a / unit + 1) * unit - a); (a, len) :: unitPieces unit fuel (a + len) (n - len)

/-- The zero words that follow once the tile's own writes have their responses (R289). -/
def SettlePlan.clears (p : SettlePlan) (k : Nat) : List (List (Bool × Nat × List Byte)) :=
  let a := p.src.tileAddr 0 k
  let size := p.src.tileSize
  if p.clear then [(unitPieces (splitUnit a size) (splitFuel (splitUnit a size) size) a size).map fun x => (false, x.1, List.replicate x.2 0)] else []

/-- One tile of a SETTLE (R258): a poisoned row ends the command there, or in a roster body the row's sequence. -/
def State.settleDense (s : State) (body : Bool) (p : SettlePlan) (m : SettleSum) (k : Nat) : PieceEnd :=
  let l := s.settleTile p k
  let bad := sortNat ((l.filter (·.bad)).map (·.r) ++ s.drainBad (p.drainReads k) (l.map (·.r)))
  if !bad.isEmpty && !body then .fault 0x0202 .step
  else
    let ok := l.filter fun e => !bad.contains e.r
    let writes := s.elemOut body p.dst 0 (ok.map fun e => { t := e.r, r := e.r, c := e.c, v := e.code })
    let nonfinite := ok.any fun e => match e.quant with | some q => q.nonfinite | none => false
    .done { PieceOut.of (.settle p (m.add p.below ok)) writes with
      stages := p.clears k, events := if nonfinite then [0x0320] else [], ends := bad.map fun r => (r, 0x0202) }

/-- A tile of a gradient plane settles word by word. -/
def State.settleSparse (s : State) (body : Bool) (p : SettlePlan) (m : SettleSum) (k : Nat) : PieceEnd :=
  let a := p.src.tileAddr 0 k
  if s.ext.poisoned false a p.src.tileSize && !body then .fault 0x0202 .step
  else
    let src := s.ext.near.part a p.src.tileSize
    let out := ((List.range (p.src.tileSize / 8)).map fun i => leBytes 4 (accRead (accOf (BitVec.ofNat 64 (src.field (a + 8 * i) 8)))).toNat).flatten
    let at_ := p.dst.tileAddr 0 k
    .done { PieceOut.of (.settle p m) [{ outWrite (p.dst.far, at_, out) with unit := splitUnit at_ p.dst.tileSize }] with stages := p.clears k }

def State.settleRun (s : State) (body : Bool) (p : SettlePlan) (m : SettleSum) (k : Nat) : PieceEnd :=
  if p.src.sparse then s.settleSparse body p m k else s.settleDense body p m k

/-- After its tiles: the statistics go to the record and the channel maxima, and it completes (R70, R75). -/
def State.settleDone (s : State) (n : Fin 32) (f : InFlight) (p : SettlePlan) (m : SettleSum) : State :=
  let fold := if p.scale.record = 0 then []
    else [(false, p.scale.record, scaleFold (s.near p.scale.record 128) (BitVec.ofNat 32 f.step) m.stats)]
  let (stat, s1) := s.statWrites n p.dst f.step m.chanMax
  match State.settleWrites n f.ref (stat ++ fold) s1 with
  | (s2, some a) => s2.windowFault n f.ref a
  | (s2, none) => s2.completeCmd n f.ref 0x01

/-- The tier-1 ranges that a SETTLE writes (R208). -/
def SettlePlan.writes (p : SettlePlan) : List (Nat × Nat) :=
  p.dst.nearRange ++ p.dst.statRange ++ (if p.clear then p.src.nearRange else []) ++ if p.scale.record = 0 then [] else [(p.scale.record, 128)]

def SettlePlan.work (p : SettlePlan) : Work :=
  let m : SettleSum := { stats := Stats.zero, chanMax := if p.dst.chanStats then List.replicate p.dst.cols 0 else [] }
  { plan := .settle p m, todo := (List.range p.dst.tileCount).map .one, phase := 0, cores := [], slots := [] }

end Sys2Proof.Machine
end

