-- ==== Sys2Proof/Machine/Update.lean ====
section
/-! DEFINITION. The parameter update (chapter 08, Table 11-17): APPLY, LAZY and NORMSQ. -/

namespace Sys2Proof.Machine

/-! ### Fields and records -/

/-- The fields of an UPDATE (Table 11-17, R182, R185, R267). -/
def readUpdFields (x : Next) : Except Half UpdFields := do
  let b := x.raw
  let c := u8 b 0xE
  x.check 0x38 [(0xF, 1)]
  need (bits c 7 4 == 0) 0x0102
  need (c % 4 != 3 && u16 b 0xC < 4096) 0x0103
  need (u64 b 0x10 != 0 && u64 b 0x18 % 32 == 0 && u64 b 0x20 % 4096 == 0) 0x0103
  return { wide := bit c 2, first := bit c 3, group := u16 b 0xC, divAddr := u64 b 0x10, norm := u64 b 0x18, sched := u64 b 0x20
           copy := u64 b 0x28, bitmap := u64 b 0x30 }

/-- R185. `c` holds the points of the curve. -/
def groupOk (r c : List Byte) : Bool :=
  let n := u8 r 0x1C
  let nonneg (x : Word) : Bool := fpIsFinite x && fpLe 0 x
  let below1 (x : Word) : Bool := fpLe 0 x && fpLt x fpOne
  u32 r 0 < 16 && below1 (w32 r 4) && below1 (w32 r 8) && fpIsFinite (w32 r 0xC) && fpLt 0 (w32 r 0xC) && nonneg (w32 r 0x10)
    && (!bit (u32 r 0) 2 || (fpIsFinite (w32 r 0x14) && fpLt 0 (w32 r 0x14))) && nonneg (w32 r 0x18)
    && 1 ≤ n && n ≤ 64 && zeroRange r 0x1D 3 && zeroRange r 0x38 8
    && (List.range n).all fun i => nonneg (w32 c (8 * i + 4)) && (i = 0 || u32 c (8 * (i - 1)) < u32 c (8 * i))

/-- The multiplier of a curve at group step `n` (R186). -/
def curveAt (c : List Byte) (points n : Nat) : Word :=
  let step (i : Nat) : Nat := u32 c (8 * i)
  let mult (i : Nat) : Word := w32 c (8 * i + 4)
  let last := points - 1
  if n ≤ step 0 then mult 0
  else if step last ≤ n then mult last
  else
    let i := ((List.range points).filter fun i => step i ≤ n).getLast?.getD 0
    fpAdd (mult i) (fpMul (fpSub (mult (i + 1)) (mult i)) (fpDiv (fpOfInt (n - step i : Nat)) (fpOfInt (step (i + 1) - step i : Nat))))

/-- R186: the group record after the issue of a command of step `t`. -/
def groupIssue (r c : List Byte) (t : Word) : List Byte :=
  if w32 r 0x24 = t then r
  else
    let n := (w32 r 0x20 + 1).toNat
    let f := curveAt c (u8 r 0x1C) n
    setField (setField (setField r 0x20 4 n) 0x24 4 t.toNat) 0x34 4 (fpMul (w32 r 0x18) f).toNat

/-- R187: the group record after a command of a frozen group. -/
def groupSkip (r : List Byte) (t : Word) : List Byte :=
  if w32 r 0x2C = t then r else setField (setField r 0x28 4 ((w32 r 0x28 + 1).toNat)) 0x2C 4 t.toNat

/-- R182: a norm record's own checks. -/
def normOk (r : List Byte) : Bool := zeroRange r 0x18 8 && fpIsFinite (w32 r 0x10) && fpLt 0 (w32 r 0x10)

def normSum (r : List Byte) : Word := accRead (accOf (w64 r 0))

/-- R183: the record with the clip factor of step `t`. -/
def normIssue (r : List Byte) (t : Word) : List Byte :=
  if w32 r 0x14 = t then r
  else
    let s := normSum r
    let f : Word :=
      if !fpIsFinite s then 0 else if fpIsZero s then fpOne else fpMin fpOne (fpMul (w32 r 0x10) (fpRsqrt s))
    setField (setField r 0xC 4 f.toNat) 0x14 4 t.toNat

/-! ### Parameters (R174, R175) -/

/-- Parameters of one tile. -/
def Desc.perTile (d : Desc) : Nat := if d.sparse then d.layout.perBlock * 128 else 4096
def Desc.paramCount (d : Desc) : Nat := if d.layout = .rows then d.rows * d.cols else d.tileCount * d.perTile

/-- State blocks of a tensor. -/
def Desc.stateBlocks (d : Desc) : Nat := ceilDiv d.paramCount 256

/-- Tile, block row and block column of a parameter of a sparse tensor. -/
def Desc.paramBlock (d : Desc) (i : Nat) : Nat × Nat × Nat :=
  let b := i % d.perTile / d.layout.perBlock
  (i / d.perTile, b / 16, b % 16)

def State.paramPattern (s : State) (d : Desc) (i : Nat) : Nat :=
  let (k, br, bc) := d.paramBlock i
  s.extPattern d k br bc

/-- The row that holds value number `n` of column `c` of a pattern (R107). -/
def patRow (p c n : Nat) : Nat := ((List.range 8).filter fun r => p.testBit (8 * r + c)).getD n 0

/-- Row and column of a parameter. -/
def State.paramAt (s : State) (d : Desc) (i : Nat) : Nat × Nat :=
  if d.layout = .rows then (i / d.cols, i % d.cols)
  else if d.sparse then
    let (k, br, bc) := d.paramBlock i
    let v := i % d.layout.perBlock
    let c := v / d.layout.perCol
    (k / d.across * 64 + 8 * br + patRow (s.extPattern d k br bc) c (v % d.layout.perCol), k % d.across * 128 + 8 * bc + c)
  else (i / 4096 / d.across * 64 + i % 4096 / 64, i / 4096 % d.across * 64 + i % 64)

/-- The parameters of a state block that an UPDATE touches: those of present blocks (R188). -/
def State.blockParams (s : State) (d : Desc) (j : Nat) : List Nat :=
  (rangeFrom (256 * j) 256).filter fun i => i < d.paramCount && (!d.sparse || s.paramPattern d i ≠ 0)

/-- Address of element (r, c) of a dense tensor whose elements are whole bytes. -/
def Desc.elemAddr (d : Desc) (r c : Nat) : Nat :=
  d.tileAddr 0 (r / 64 * d.across + c / 64) + d.form.width / 8 * (64 * (r % 64) + c % 64)

/-- Address of a parameter's gradient. -/
def State.gradParam (s : State) (w g : Desc) (i : Nat) : Nat :=
  let e := g.form.width / 8
  if g.sparse then g.base + e * i
  else
    let (r, c) := s.paramAt w i
    if g.layout = .rows then g.base + r * g.itemStride + e * c else g.elemAddr r c

def roundPage (n : Nat) : Nat := (n + 4095) / 4096 * 4096

def Desc.headerAddr (d : Desc) (j : Nat) : Nat := d.state + 16 * j
def Desc.firstAddr (d : Desc) (i : Nat) : Nat := d.state + roundPage (16 * d.stateBlocks) + i
def Desc.secondAddr (d : Desc) (i : Nat) : Nat := d.state + roundPage (roundPage (16 * d.stateBlocks) + 256 * d.stateBlocks) + i
def Desc.masterAddr (d : Desc) (i : Nat) : Nat := d.master + 4 * i

/-! ### What an UPDATE fixes at issue -/

def UpdRun.flag (u : UpdRun) (i : Nat) : Bool := bit (u32 u.group 0) i
def UpdRun.b1 (u : UpdRun) : Word := w32 u.group 4
def UpdRun.b2 (u : UpdRun) : Word := w32 u.group 8

/-- A gradient word as stored (R181). -/
def gradWord (form : Form) (m : Mem) (a : Nat) : Word :=
  if form = .wide then accRead (accOf (BitVec.ofNat 64 (m.field a 8))) else BitVec.ofNat 32 (m.field a 4)

/-- g of R177: the scaled gradient after the element clip. -/
def UpdRun.clipped (u : UpdRun) (x : Word) : Word :=
  let g := fpMul x u.gs
  let c := w32 u.group 0x14
  if u.flag 2 then fpMin (fpMax g (fpNegate c)) c else g

/-- R184: both values that are checked are finite. -/
def UpdRun.gradOk (u : UpdRun) (x : Word) : Bool :=
  let g := u.clipped x
  fpIsFinite (fpMul x u.gs) && fpIsFinite (fpMul g g)

/-- New values of one parameter (R177). -/
structure NewParam where
  w : Word
  m : Word
  v : Word
  sigma : Word
deriving DecidableEq, Repr

def UpdRun.update (u : UpdRun) (c1 s2 w m0 v0 x : Word) : NewParam :=
  let g := u.clipped x
  let m := fpAdd (fpMul u.b1 m0) (fpMul (fpSub fpOne u.b1) g)
  let v := fpAdd (fpMul u.b2 v0) (fpMul (fpSub fpOne u.b2) (fpMul g g))
  let sg := if fpLt 0 v then fpMul v (fpRsqrt v) else 0
  let d := fpMul (fpMul m c1) (fpRecip (fpAdd (fpMul sg s2) (w32 u.group 0xC)))
  let d1 := if u.flag 1 then fpAdd d (fpMul (w32 u.group 0x10) w) else d
  { w := fpSub w (fpMul (w32 u.group 0x34) d1), m := m, v := v, sigma := sg }

/-- c1 and s2 for the exponent k (R178). -/
def UpdRun.bias (u : UpdRun) (k : Nat) : Word × Word :=
  (fpRecip (fpSub fpOne (fpPow u.b1 k)), fpRsqrt (fpSub fpOne (fpPow u.b2 k)))

/-- A moment scale and its codes (R179). -/
def narrowMoments (l : List Word) : Word × List Nat :=
  let a := l.foldl (fun m x => fpMax m (fpAbs x)) 0
  let sc := if fpIsZero a then fpOne else fpDiv a (fpOfInt 448)
  let rs := fpDiv fpOne sc
  (sc, l.map fun x => (quantize .e4m3 false 0 fpOne (fpMul x rs)).code)

/-! ### One state block (R188, R197, R198) -/

/-- What a state block leaves: its parameters with their master values after the command, its writes, and its header. -/
structure BlockOut where
  block : Nat
  params : List Nat
  writes : List (Bool × Nat × List Byte)
  header : Option (List Byte)
  nonfinite : Bool
deriving DecidableEq, Repr

/-- Writes of values of parameters, joined where the parameters follow one another. -/
def paramWrites (addr : Nat → Nat) (e : Nat) (l : List (Nat × Nat)) : List (Bool × Nat × List Byte) :=
  (wordRuns (l.map (·.1))).map fun (a, n) =>
    (false, addr a, ((rangeFrom a n).map fun i => leBytes e (((l.find? fun x => x.1 = i).map (·.2)).getD 0)).flatten)

/-- The pattern words of a state block of a sparse tensor, of parameters `b` to `b` + 255. -/
def Desc.patternRead (d : Desc) (b : Nat) : InRead :=
  let per := 256 / d.layout.perBlock
  { far := d.auxFar, addr := d.auxBase + per * b * 8, size := per * 8, unit := 0 }

/-- Ranges of a plane that hold parameters. -/
def paramReads (addr : Nat → Nat) (e : Nat) (ps : List Nat) : List InRead := (wordRuns ps).map fun x => nearRead (addr x.1) (e * x.2)

def UpdRun.masterReads (u : UpdRun) (ps : List Nat) : List InRead := paramReads u.w.masterAddr 4 ps
def UpdRun.momentReads (u : UpdRun) (ps : List Nat) : List InRead := paramReads u.w.firstAddr 1 ps ++ paramReads u.w.secondAddr 1 ps

/-- The unit in which the mover splits the accesses to a tile or plane that is not aligned (R241); none for rows. -/
def Desc.unitAt (d : Desc) (base : Nat) : Nat := if d.layout = .rows then 0 else splitUnit base d.tileSize

def State.gradReads (s : State) (w g : Desc) (ps : List Nat) : List InRead :=
  let e := g.form.width / 8
  (joinRanges (ps.map fun i => (s.gradParam w g i, e))).map fun x => { far := g.far, addr := x.1, size := x.2, unit := g.unitAt g.base }

def InRead.poisoned (x : InRead) (s : State) : Bool := s.ext.poisoned x.far x.addr x.size

/-- A header of step t or earlier with usable scales. -/
def UpdRun.headerOk (u : UpdRun) (h : List Byte) : Bool := w32 h 0 ≤ u.step && fpPosNormal (w32 h 8) && fpPosNormal (w32 h 0xC)

/-- What a state block reads once its header is known: of a block whose tag is the step its master weights alone (R197). -/
def State.blockReads (s : State) (u : UpdRun) (b : Nat) : List InRead :=
  let ps := s.blockParams u.w b
  let h := s.near (u.w.headerAddr b) 16
  if ps.isEmpty || !u.headerOk h then []
  else if w32 h 0 = u.step then u.masterReads ps
  else s.gradReads u.w u.g ps ++ u.masterReads ps ++ u.momentReads ps

/-- A state block: none where it holds no present block, else what it leaves or the code with which it ends the command. -/
def State.runBlock (s : State) (u : UpdRun) (b : Nat) : Option (Except Half BlockOut) :=
  let ps := s.blockParams u.w b
  if u.w.sparse && (u.w.patternRead b).poisoned s then some (.error 0x0504)
  else if ps.isEmpty then none
  else if s.ext.poisoned false (u.w.headerAddr b) 16 then some (.error 0x0504)
  else
    let h := s.near (u.w.headerAddr b) 16
    if !u.headerOk h then some (.error 0x0502)
    else if (s.blockReads u b).any fun x => x.poisoned s then some (.error 0x0504)
    else if w32 h 0 = u.step then some (.ok { block := b, params := ps, writes := [], header := none, nonfinite := false })
    else
      let gm := s.ext.mem u.g.far
      let xs := ps.map fun i => (i, gradWord u.g.form gm (s.gradParam u.w u.g i))
      if xs.any fun x => !u.gradOk x.2 then
        some (.ok { block := b, params := ps, writes := [], header := some (setField h 0 4 u.step.toNat), nonfinite := true })
      else
        let k := u32 h 4 + 1
        let (c1, s2) := u.bias k
        let one (x : Nat × Word) : Nat × NewParam :=
          let old := BitVec.ofNat 32 (s.ext.near.field (u.w.masterAddr x.1) 4)
          let m0 := fpMul (codeFp .e4m3 (s.ext.near.read (u.w.firstAddr x.1)).toNat) (w32 h 8)
          let sg := fpMul (codeFp .e4m3 (s.ext.near.read (u.w.secondAddr x.1)).toNat) (w32 h 0xC)
          (x.1, u.update c1 s2 old m0 (fpMul sg sg) x.2)
        let new := xs.map one
        let (ms, mc) := narrowMoments (new.map (·.2.m))
        let (vs, vc) := narrowMoments (new.map (·.2.sigma))
        let hdr := leBytes 4 u.step.toNat ++ leBytes 4 (Nat.min k 0xFFFFFFFF) ++ leBytes 4 ms.toNat ++ leBytes 4 vs.toNat
        let writes := paramWrites u.w.masterAddr 4 (new.map fun x => (x.1, x.2.w.toNat)) ++ paramWrites u.w.firstAddr 1 (ps.zip mc)
          ++ paramWrites u.w.secondAddr 1 (ps.zip vc)
        some (.ok { block := b, params := ps, writes := writes, header := some hdr, nonfinite := false })

/-- State blocks in order, up to the first that ends the command. -/
def State.runBlocks (s : State) (u : UpdRun) : List Nat → Except Half (List BlockOut)
  | [] => .ok []
  | b :: r =>
    match s.runBlock u b with
    | none => s.runBlocks u r
    | some (.error c) => .error c
    | some (.ok o) => (s.runBlocks u r).map (o :: ·)

/-! ### The narrow copy (R191, R73, R75) -/

/-- Parameter index of element (r, c) of a dense tensor. -/
def Desc.paramIndex (d : Desc) (r c : Nat) : Nat :=
  if d.layout = .rows then r * d.cols + c else 4096 * (r / 64 * d.across + c / 64) + 64 * (r % 64) + c % 64

/-- The unit of the copy that holds a parameter: its address, its elements, and the element. -/
def UpdRun.copyAt (u : UpdRun) (i : Nat) : Nat × Nat × Nat :=
  let base := if u.f.copy = 0 then u.w.base else u.f.copy
  if u.w.layout = .rows then (base + i / u.w.cols * u.w.itemStride, u.w.cols, i % u.w.cols)
  else (base + i / u.w.perTile * u.w.tileSize, u.w.perTile, i % u.w.perTile)

/-- The channels of a sparse tensor's tile rows in which some state blocks lie, those without a present block among them (R75). -/
def UpdRun.sparseRows (u : UpdRun) (blocks : List Nat) : List Nat :=
  if u.w.sparse then
    ((sortNat (blocks.map fun b => 256 * b / u.w.perTile / u.w.across)).map fun g => (rangeFrom (64 * g) 64).filter (· < u.w.rows)).flatten
  else []

/-- Smoothing exponents of the rows given (R75): row and exponent. -/
def State.smoothRows (s : State) (u : UpdRun) (rows : List Nat) (vals : List ((Nat × Nat) × Word)) : List (Nat × Int) :=
  match u.w.ext with
  | some e =>
    if !u.w.smooth then []
    else
      rows.map fun r =>
        let aw := (vals.filter fun v => v.1.1 = r).foldl (fun m v => fpMax m (fpAbs v.2)) 0
        (r, smoothExp e.alpha8 (BitVec.ofNat 32 (s.ext.near.field (e.chanstatBase + 4 * r) 4)) aw)
  | none => []

/-- The value of the copy at a parameter: rotated, then smoothed (DEDUCED, log 53). -/
def UpdRun.copyValue (u : UpdRun) (m : Mem) (sm : List (Nat × Int)) (rc : Nat × Nat) (v : Word) : Word :=
  let x :=
    if u.w.rotate then
      let g := rc.1 / 64 * 64
      (rotate64 ((rangeFrom g 64).map fun r => BitVec.ofNat 32 (m.field (u.w.masterAddr (u.w.paramIndex r rc.2)) 4))).getD (rc.1 % 64) 0
    else v
  match sm.find? fun y => y.1 = rc.1 with
  | some y => fpMul x (fpTwoPow y.2)
  | none => x

/-- The narrow copy of the blocks done: its writes, its statistics, and whether a value was not finite. -/
structure CopyOut where
  writes : List OutWrite
  stats : Stats
  nonfinite : Bool
deriving DecidableEq, Repr

/-- Puts codes into the copy, unit by unit. -/
def State.copyWrites (s : State) (u : UpdRun) (codes : List (Nat × Nat)) : List OutWrite :=
  let far := u.f.copy = 0 && u.w.far
  let placed := codes.map fun x => (u.copyAt x.1, x.2)
  let units := sortNat (placed.map (·.1.1))
  (units.map fun a =>
    let l := (placed.filter fun x => x.1.1 = a)
    let n := (l.head?.map (·.1.2.1)).getD 0
    (s.elemWrites far u.w.form n a (l.map fun x => (x.1.2.2, x.2))).map fun w => { outWrite (far, w.1, w.2) with unit := u.w.unitAt a }).flatten

/-- The narrow copy of the state blocks `l`, of which `outs` hold present blocks. Of rows whose blocks all carry the command's step nothing is written (R197);
a channel without a present block gets its factor with the others of its tile row (DEDUCED, log 53). -/
def State.narrowCopy (s : State) (u : UpdRun) (l : List Nat) (outs : List BlockOut) : CopyOut :=
  let m := (outs.map (·.writes)).flatten.foldl (fun m w => m.writeBytes w.2.1 w.2.2) s.ext.near
  let ps := (outs.map fun o => o.params.map fun i => (i, o.header.isSome)).flatten
  let vals := ps.map fun x => (s.paramAt u.w x.1, BitVec.ofNat 32 (m.field (u.w.masterAddr x.1) 4))
  let has := sortNat ((vals.map (·.1.1)).filter (· < u.w.rows))
  let empty := (u.sparseRows l).filter (!has.contains ·)
  let sm := s.smoothRows u (has ++ empty) vals
  let fresh := sortNat ((ps.zip vals).filterMap fun x => if x.1.2 then some x.2.1.1 else none) ++ if outs.all (·.header.isNone) && !outs.isEmpty then [] else empty
  let out := (ps.zip vals).map fun x =>
    let v := u.copyValue m sm x.2.1 x.2.2
    (x.1, v, quantize u.scale.form false 0 u.scale.rscale v)
  let smooth := match u.w.ext with
    | some e => (sm.filter fun y => fresh.contains y.1).map fun y => outWrite (false, e.smoothBase + y.1, [BitVec.ofInt 8 y.2])
    | none => []
  { writes := s.copyWrites u ((out.filter fun x => x.1.2).map fun x => (x.1.1, x.2.2.code)) ++ smooth
    stats := out.foldl (fun st x => st.count x.2.1 x.2.2 u.below) Stats.zero
    nonfinite := out.any fun x => x.2.2.nonfinite }

/-! ### Checks -/

/-- R181, R191, R192, R235 and the forms of the tensors. -/
def State.checkTensors (s : State) (x : Next) (f : UpdFields) (isLazy : Bool) : Except Half (Desc × Desc) := do
  need (u16 x.raw 8 != 0xFFFF && u16 x.raw 0xA != 0xFFFF) 0x0103
  let w ← s.operand x.job x.ref (u16 x.raw 8)
  let g ← s.operand x.job x.ref (u16 x.raw 0xA)
  need (g.form == (if f.wide then .wide else .fp32) && w.form.isCode) 0x0103
  need ((w.sparse && w.maskRec != 0) || (w.ext.isSome && w.master != 0 && w.state != 0 && w.state % 4096 == 0)) 0x0103
  need (if w.sparse then g.layout == w.layout else !g.sparse) 0x0103
  zpOk false g.form g
  extOk w
  needIf w.smooth (match w.ext with | some e => e.chanstatBase != 0 | none => false) 0x0103
  need (w.rows == g.rows && w.cols == g.cols) 0x0108
  if w.sparse then sparseShapeOk w
  if g.sparse then sparseShapeOk g
  need (w.tilesOk && g.tilesOk && f.copy % 64 == 0 && (w.layout != .rows || w.rowsOk) && (g.layout != .rows || g.rowsOk)) 0x0208
  needIf isLazy (w.layout == .rows) 0x0208
  need (!(w.rotate && w.sparse)) 0x0508
  needIf w.rotate (w.rows % 64 == 0) 0x0110
  needIf isLazy (w.cols % 256 == 0) 0x0507
  needIf (!x.job.desc.exclusive) (f.copy != 0 || !w.far) 0x0205
  return (w, g)

/-- The group record and its curve (R185). -/
def State.readGroup (s : State) (j : JobDesc) (f : UpdFields) : Except Half (List Byte × List Byte) := do
  need (f.sched != 0 && f.sched % 4096 == 0) 0x0103
  let r ← s.record j (f.sched + 64 * f.group) 64 0x0107
  let c ← s.record j (f.sched + 0x40000 + 512 * f.group) (8 * Nat.min 64 (Nat.max 1 (u8 r 0x1C))) 0x0107
  need (groupOk r c) 0x0501
  return (r, c)

/-- The norm record (R182, R183). -/
def State.readNorm (s : State) (j : JobDesc) (f : UpdFields) : Except Half (Option (List Byte)) := do
  if f.norm = 0 then return none
  else
    let r ← s.record j f.norm 32 0x0107
    need (normOk r) 0x0509
    return some r

/-- The divisor as FP32 (R181): RNE. -/
def State.divisor (s : State) (j : JobDesc) (f : UpdFields) : Except Half Nat := (s.record j f.divAddr 8 0x0107).map fun b => u64 b 0

/-- What an APPLY or LAZY does at issue. -/
inductive UpdIssue
  | frozen (group : List Byte)
  | noop (code : Half) (norm : Option (List Byte))
  | run (u : UpdRun) (norm : Option (List Byte)) (record : Option (List Byte)) (clamped aligned : Bool)
deriving DecidableEq, Repr

/-- The plane or tiles that the narrow copy goes to are aligned (R191, R241). -/
def copyAligned (w : Desc) (f : UpdFields) : Bool := if f.copy = 0 then w.aligned else w.unitAt f.copy = 0

/-- Checks of an APPLY or LAZY at issue. The norm record's step is tested before the divisor: where both are wrong the command ends with 0x0509 (DESIGN
CHOICE, log 155). -/
def State.checkUpdate (s : State) (isLazy : Bool) (x : Next) : Except Half (UpdFields × UpdIssue) := do
  let j := x.job.desc
  let f ← readUpdFields x
  let t := BitVec.ofNat 32 x.step
  let (w, g) ← s.checkTensors x f isLazy
  needIf isLazy (f.bitmap != 0 && f.bitmap % 4096 == 0) 0x0103
  let (r, c) ← s.readGroup j f
  need (isLazy || !bit (u32 r 0) 3) 0x0507
  let (sc, rec_, clamped) ← s.produceScale j w t
  zpOk false sc.form w
  if bit (u32 r 0) 0 then return (f, .frozen (groupSkip r t))
  else
    let norm ← s.readNorm j f
    need (match norm with | some b => w32 b 8 == t | none => true) 0x0509
    let d ← s.divisor j f
    let norm1 := norm.map fun b => normIssue b t
    if d = 0 then return (f, .noop 0x0503 none)
    else if norm.any fun b => !fpIsFinite (normSum b) then return (f, .noop 0x0506 norm1)
    else
      let factor := match norm1 with | some b => w32 b 0xC | none => fpOne
      let u : UpdRun :=
        { w := w, g := g, f := f, isLazy := isLazy, step := t, group := groupIssue r c t
          gs := fpMul factor (fpDiv fpOne (fpOfInt (d : Int))), scale := sc
          below := s.belowOf x.job sc.record t }
      return (f, .run u norm1 rec_ clamped (copyAligned w f && g.aligned))

/-! ### APPLY and LAZY -/

/-- The words of the touched bitmap with a bit set: word number and the rows (R192, R194). -/
def State.touchedWords (s : State) (u : UpdRun) : List (Nat × List Nat) :=
  let n := ceilDiv u.w.rows 64
  let m := s.ext.near.part u.f.bitmap (8 * n)
  ((List.range n).map fun i =>
    let v := m.field (u.f.bitmap + 8 * i) 8
    (i, ((List.range 64).filter fun b => v.testBit b && 64 * i + b < u.w.rows).map fun b => 64 * i + b)).filter fun x => !x.2.isEmpty

/-- State blocks of a row of a lazy table (R192). -/
def UpdRun.rowBlocks (u : UpdRun) (r : Nat) : List Nat := rangeFrom (r * (u.w.cols / 256)) (u.w.cols / 256)

/-- State blocks that an APPLY does together: one, but with ROTATE those of a tile, whose new values the drain holds first (R191), and with smoothing
those of the channels of a tile row, whose largest weight the factors need (R75). -/
def UpdRun.together (u : UpdRun) : Nat :=
  if u.w.layout = .rows then
    (if u.w.rotate then u.w.cols / 4 else if u.w.smooth then (if u.w.cols % 256 = 0 then u.w.cols / 256 else u.w.cols / 4) else 1)
  else if u.w.smooth then u.w.across * (u.w.perTile / 256)
  else if u.w.rotate then u.w.perTile / 256
  else 1

/-- The pieces of an APPLY: its state blocks in order. -/
def UpdRun.blockPieces (u : UpdRun) : List Piece :=
  let nb := u.w.stateBlocks
  let k := Nat.max 1 u.together
  (List.range (ceilDiv nb k)).map fun i => .blocks (rangeFrom (k * i) (Nat.min k (nb - k * i)))

/-- The pieces of a LAZY for one bitmap word: the blocks of its rows, then the word itself. -/
def UpdRun.wordPieces (u : UpdRun) (w : Nat × List Nat) : List Piece :=
  let rows := w.2.map u.rowBlocks
  (if u.w.rotate then [.blocks rows.flatten] else if u.w.smooth then rows.map .blocks else rows.flatten.map fun b => .blocks [b]) ++ [.word w.1]

def UpdRun.pieces (u : UpdRun) : List Piece := if u.isLazy then [.bitmap] else u.blockPieces

/-- The rows of the tensor that some state blocks cover. -/
def State.blockRows (s : State) (u : UpdRun) (l : List Nat) : List Nat :=
  sortNat (((l.map (s.blockParams u.w)).flatten.map fun i => (s.paramAt u.w i).1).filter (· < u.w.rows) ++ u.sparseRows l)

/-- The channel maxima that the smoothing factors of some rows read. -/
def State.statReads (s : State) (u : UpdRun) (l : List Nat) : List InRead :=
  match u.w.ext with
  | some e => if u.w.smooth then paramReads (fun r => e.chanstatBase + 4 * r) 4 (s.blockRows u l) else []
  | none => []

/-- With ROTATE, the master weights of the 64 rows that a row-layout table's blocks lie in. -/
def UpdRun.groupReads (u : UpdRun) (l : List Nat) : List InRead :=
  if u.w.rotate && u.w.layout = .rows then
    (sortNat (l.map fun b => 256 * b / u.w.cols / 64)).map fun g => nearRead (u.w.masterAddr (64 * g * u.w.cols)) (256 * u.w.cols)
  else []

/-- The reads of a piece of an UPDATE, round by round: the patterns, the headers, then what the blocks need. -/
def State.updateReads (s : State) (u : UpdRun) (x : Piece) (phase : Nat) : Option (List InRead) :=
  match x, phase with
  | .bitmap, 0 => some [nearRead u.f.bitmap (8 * ceilDiv u.w.rows 64)]
  | .blocks l, 0 => some (if u.w.sparse then l.map u.w.patternRead else [])
  | .blocks l, 1 => some (((l.filter fun b => !(s.blockParams u.w b).isEmpty).map fun b => nearRead (u.w.headerAddr b) 16) ++ s.statReads u l)
  | .blocks l, 2 => some ((l.map (s.blockReads u)).flatten ++ u.groupReads l)
  | _, _ => none

/-- The count of blocks that R184 leaves unchanged, in the group record. -/
def State.badBlocks (s : State) (u : UpdRun) (bad : Nat) : List (Bool × Nat × List Byte) :=
  let a := u.f.sched + 64 * u.f.group + 0x30
  if bad = 0 then [] else [(false, a, leBytes 4 ((s.ext.near.field a 4 + bad) % 2 ^ 32))]

/-- State blocks that are done together (R188): masters, moments and narrow copy, and the headers after their responses. -/
def State.blocksRun (s : State) (u : UpdRun) (st : Stats) (l : List Nat) : PieceEnd :=
  match s.runBlocks u l with
  | .error c => .fault c .cmd
  | .ok outs =>
    if (s.statReads u l ++ u.groupReads l).any fun x => x.poisoned s then .fault 0x0504 .cmd
    else
      let copy := s.narrowCopy u l outs
      let bad := (outs.filter (·.nonfinite)).length
      let heads := outs.filterMap fun o => o.header.map fun h => (false, u.w.headerAddr o.block, h)
      .done { PieceOut.of (.update u (st.join copy.stats)) (((outs.map (·.writes)).flatten.map outWrite) ++ copy.writes ++ (s.badBlocks u bad).map outWrite) with
        stages := if heads.isEmpty then [] else [heads]
        events := (if bad = 0 then [] else [0x0505]) ++ if copy.nonfinite then [0x0320] else [] }

def State.updateRun (s : State) (u : UpdRun) (st : Stats) (x : Piece) : PieceEnd :=
  match x with
  | .blocks l => s.blocksRun u st l
  | .bitmap =>
    if s.ext.poisoned false u.f.bitmap (8 * ceilDiv u.w.rows 64) then .fault 0x0504 .cmd
    else .done { PieceOut.of (.update u st) [] with more := ((s.touchedWords u).map u.wordPieces).flatten }
  | .word k => .done (PieceOut.of (.update u st) [outWrite (false, u.f.bitmap + 8 * k, leBytes 8 0)])
  | .one _ => .done (PieceOut.of (.update u st) [])

/-- The statistics of the narrow copy go to its record, and the command completes (R70). -/
def State.updateDone (s : State) (n : Fin 32) (f : InFlight) (u : UpdRun) (st : Stats) : State :=
  let fold := if u.scale.record = 0 then [] else [(false, u.scale.record, scaleFold (s.near u.scale.record 128) u.step st)]
  match State.settleWrites n f.ref fold s with
  | (s1, some a) => s1.windowFault n f.ref a
  | (s1, none) => s1.completeCmd n f.ref 0x01

/-- Detections of the drain lanes of an UPDATE: the element is formed again (Table 14-1). Which core's drain takes its rows, of 64 values each, is the
firmware's choice; the first whose drain works stands for it (R12; log 54). -/
def State.lanesAgain (s : State) (f : InFlight) (u : UpdRun) (det : List Detection) : State :=
  let total := ceilDiv u.w.paramCount 64
  match allCores.find? s.coreArmed with
  | none => s
  | some c =>
    let hits := (det.filterMap Detection.laneAt).filter (·.1 < total)
    let upTo := hits.foldl (fun m x => Nat.max m (x.1 + 1)) 0
    s.drainRows c f hits (List.range (Nat.min total (upTo + 1)))

/-- Tier-1 ranges that an UPDATE may write (R208). -/
def UpdRun.writeRanges (u : UpdRun) : List (Nat × Nat) :=
  let nb := u.w.stateBlocks
  [(u.w.master, 4 * u.w.paramCount), (u.w.state, u.w.secondAddr (256 * nb) - u.w.state), (u.f.sched + 64 * u.f.group, 64)]
    ++ (if u.f.copy = 0 then u.w.nearRange else [(u.f.copy, u.w.span)])
    ++ (if u.f.norm = 0 then [] else [(u.f.norm, 32)]) ++ (if u.scale.record = 0 then [] else [(u.scale.record, 128)])
    ++ (if u.isLazy then [(u.f.bitmap, 8 * ceilDiv u.w.rows 64)] else [])
    ++ (match u.w.ext with | some e => if u.w.smooth then [(e.smoothBase, u.w.rows)] else [] | none => [])

def UpdRun.work (u : UpdRun) : Work := { plan := .update u Stats.zero, todo := u.pieces, phase := 0, cores := [], slots := [] }

/-- The writes that an APPLY or LAZY makes as it issues: the clip factor, the group record, the scale record (R183, R186, R69). -/
def UpdRun.issueWrites (u : UpdRun) (norm record : Option (List Byte)) : List (Bool × Nat × List Byte) :=
  (match norm with | some b => [(false, u.f.norm, b)] | none => []) ++ [(false, u.f.sched + 64 * u.f.group, u.group)]
    ++ match record with | some b => [(false, u.scale.record, b)] | none => []

/-! ### NORMSQ (R182) -/

def State.checkNorm (s : State) (x : Next) : Except Half NormRun := do
  let f ← readUpdFields x
  need (f.norm != 0 && u16 x.raw 0xA != 0xFFFF) 0x0103
  let w ← s.operandOpt x.job x.ref (u16 x.raw 8)
  w.toList.forM notGradPlane
  let g ← s.operand x.job x.ref (u16 x.raw 0xA)
  need (g.form == if f.wide then .wide else .fp32) 0x0103
  zpOk false g.form g
  if g.sparse then sparseShapeOk g
  need (g.tilesOk && (g.layout != .rows || g.rowsOk)) 0x0208
  let _norm ← s.readNorm x.job.desc f
  let d ← s.divisor x.job.desc f
  return { g := g, f := f, step := BitVec.ofNat 32 x.step, divisor := d }

/-- The parameters of a tile that NORMSQ sums, in index order. -/
def State.normParams (s : State) (g : Desc) (k : Nat) : List Nat :=
  (rangeFrom (k * g.perTile) g.perTile).filter fun i => i < g.paramCount && (!g.sparse || s.paramPattern g i ≠ 0)

def State.normReads (s : State) (r : NormRun) (x : Piece) (phase : Nat) : Option (List InRead) :=
  match x, phase with
  | .one k, 0 => some (if r.g.sparse then [{ far := r.g.auxFar, addr := r.g.indexAddr 0 k, size := 1024, unit := 0 }] else [])
  | .one k, 1 => some (s.gradReads r.g r.g (s.normParams r.g k))
  | _, _ => none

/-- The partial of a tile, added to the command's total (R129, R182). -/
def State.normRun (s : State) (r : NormRun) (sum : DWord) (k : Nat) : PieceEnd :=
  let g := r.g
  let ps := s.normParams g k
  if (g.sparse && s.ext.poisoned g.auxFar (g.indexAddr 0 k) 1024) || (s.gradReads g g ps).any fun x => x.poisoned s then .fault 0x0504 .cmd
  else
    let m := s.ext.mem g.far
    let inv := fpDiv fpOne (fpOfInt (r.divisor : Int))
    let part := sumRne (ps.map fun i => let y := fpMul (gradWord g.form m (s.gradParam g g i)) inv; fpMul y y)
    .done (PieceOut.of (.norm r (accBits (accAdd (accOf sum) part))) [])

/-- The total goes to the norm record (R182). -/
def State.normDone (s : State) (n : Fin 32) (f : InFlight) (r : NormRun) (sum : DWord) : State :=
  let total := if r.f.first then accOf sum else accCombine (accOf (BitVec.ofNat 64 (s.ext.near.field r.f.norm 8))) (accOf sum)
  match State.settleWrites n f.ref [(false, r.f.norm, leBytes 8 (accBits total).toNat ++ leBytes 4 r.step.toNat)] s with
  | (s1, some a) => s1.windowFault n f.ref a
  | (s1, none) => s1.completeCmd n f.ref 0x01

def NormRun.work (r : NormRun) : Work :=
  { plan := .norm r 0, todo := (List.range (ceilDiv r.g.paramCount r.g.perTile)).map .one, phase := 0, cores := [], slots := [] }

end Sys2Proof.Machine
end

