-- ==== Sys2Proof/Machine/Mask.lean ====
section
/-! DEFINITION. The mask commands (chapter 07, Table 11-18): SCORE, PRUNE, REGROW and COMMIT. -/

namespace Sys2Proof.Machine

/-! ### Blocks of a masked tensor -/

/-- A block: its tile, block row and block column. -/
structure BlockAt where
  k : Nat
  br : Nat
  bc : Nat
deriving DecidableEq, Repr

/-- Place of a block in its tile. -/
def BlockAt.n (b : BlockAt) : Nat := 16 * b.br + b.bc

def MaskRun.nc (m : MaskRun) : Nat := m.d.layout.perCol
def MaskRun.perBlock (m : MaskRun) : Nat := m.d.layout.perBlock
def MaskRun.version (m : MaskRun) : Word := w32 m.rec_ 0
def MaskRun.shadowState (m : MaskRun) : Nat := u32 m.rec_ 8 % 4
def MaskRun.base (m : MaskRun) (off : Nat) : Nat := u64 m.rec_ off

/-- Base number `i` (value, index, master, state) of the live set, or of the shadow. -/
def MaskRun.plane (m : MaskRun) (shadow : Bool) (i : Nat) : Nat := u64 m.rec_ (maskSet m.rec_ shadow + 8 * i)

def MaskRun.patAddr (m : MaskRun) (shadow : Bool) (b : BlockAt) : Nat := m.plane shadow 1 + 1024 * b.k + 8 * b.n
def MaskRun.keyAddr (m : MaskRun) (b : BlockAt) : Nat := m.base 0x78 + 16384 * b.k + 128 * b.n
def MaskRun.scoreAddr (m : MaskRun) (b : BlockAt) : Nat := m.base 0x80 + 4 * (128 * b.k + b.n)
def MaskRun.dropAddr (m : MaskRun) (b : BlockAt) : Nat := m.base 0x88 + 1024 * b.k + 8 * b.n

/-- Index of the first parameter of a block (R174). -/
def MaskRun.paramOf (m : MaskRun) (b : BlockAt) : Nat := m.d.layout.perBlock * 128 * b.k + m.perBlock * b.n

def State.patternWord (s : State) (m : MaskRun) (b : BlockAt) : Nat := s.ext.near.field (m.patAddr false b) 8
def State.keyOf (s : State) (m : MaskRun) (b : BlockAt) (p : Nat) : Nat := s.ext.near.field (m.keyAddr b + 2 * p) 2
def State.scoreOf (s : State) (m : MaskRun) (b : BlockAt) : Word := BitVec.ofNat 32 (s.ext.near.field (m.scoreAddr b) 4)
def State.dropWord (s : State) (m : MaskRun) (b : BlockAt) : Nat := s.ext.near.field (m.dropAddr b) 8

/-- The positions of a pattern in value order: column by column (R107). -/
def valueOrder (p : Nat) : List Nat :=
  ((List.range 8).map fun c => ((List.range 8).filter fun r => p.testBit (8 * r + c)).map fun r => 8 * r + c).flatten

def tileBlocks (k : Nat) : List BlockAt := (List.range 128).map fun i => { k := k, br := i / 16, bc := i % 16 }

/-- The blocks of a 64-column strip, band by band. -/
def MaskRun.stripBands (m : MaskRun) (st : Nat) : List (Nat × List BlockAt) :=
  (List.range (8 * m.d.down)).map fun b =>
    (b, (List.range 8).map fun i => { k := b / 8 * m.d.across + st / 2, br := b % 8, bc := 8 * (st % 2) + i })

/-! ### Issue -/

/-- The tensor of a mask command (R155). DEDUCED (log 157): a sparse tensor that breaks the shape of R105 ends the command at issue with 0x0116; DEDUCED
(log 146): poison in the mask record ends it with 0x0107. -/
def State.checkMask (s : State) (x : Next) (used : Nat) (holes : List (Nat × Nat)) : Except Half MaskRun := do
  x.check used holes
  need (u16 x.raw 8 != 0xFFFF) 0x0103
  let d ← s.operand x.job x.ref (u16 x.raw 8)
  need (d.sparse && d.maskRec != 0) 0x0542
  need d.form.isCode 0x0103
  sparseShapeOk d
  let b ← s.record x.job.desc d.maskRec 512 0x0107
  return { d := d, rec_ := b, step := BitVec.ofNat 32 x.step }

/-- A piece of a mask command: poison in what it reads ends the command there (R173). -/
def State.maskPiece (s : State) (l : List InRead) (o : PieceOut) : PieceEnd := if l.any fun x => x.poisoned s then .fault 0x0544 .cmd else .done o

/-- DESIGN CHOICE (log 156): a mask command whose record lies in no writable window ends with 0x0201 as it issues, before it reads or writes a tile; the spec does
not order the test of the record's window and the work. -/
def State.withRecord (s : State) (x : Next) (m : MaskRun) (f : InFlight) (k : State → State) : State :=
  let s1 := s.issueNext x f
  if x.job.desc.mayWrite false m.d.maskRec 512 then k s1 else s1.windowFault x.n x.ref (x.job.desc.missWrite false m.d.maskRec 512)

def workOf (p : WorkPlan) (l : List Piece) : Work := { plan := p, todo := l, phase := 0, cores := [], slots := [] }

/-! ### SCORE (R158) -/

/-- key(x), and whether x was not finite. -/
def scoreKey (x : Word) : Nat × Bool := if fpIsFinite x then ((fpAbs x).toNat / 65536, false) else (0, true)

def sumAbs (l : List Word) : Word := sumRne (l.map fpAbs)

/-- Value of the complement plane at position `p` of a present block (R156). -/
def State.compValue (s : State) (m : MaskRun) (b : BlockAt) (pat p : Nat) : Word :=
  let n := 8 - m.nc
  let v := valueNo n (2 ^ 64 - 1 - pat) (p / 8) (p % 8)
  BitVec.ofNat 32 (s.ext.near.field (m.base 0x60 + 4 * (8 * n * (128 * b.k + b.n) + v)) 4)

def State.masterValue (s : State) (m : MaskRun) (b : BlockAt) (v : Nat) : Word :=
  BitVec.ofNat 32 (s.ext.near.field (m.plane false 2 + 4 * (m.paramOf b + v)) 4)

def State.candValue (s : State) (m : MaskRun) (b : BlockAt) (p : Nat) : Word :=
  BitVec.ofNat 32 (s.ext.near.field (m.base 0x68 + 32768 * b.k + 256 * b.n + 4 * p) 4)

def keyBytes (l : List Nat) : List Byte := (l.map (leBytes 2)).flatten

/-- Keys of a block, its score, and whether a key was given to a value that is not finite (Table 07-2). -/
def State.scoreBlock (s : State) (m : MaskRun) (mag comp cand : Bool) (b : BlockAt) : Option (List Nat) × Word × Bool :=
  let pat := s.patternWord m b
  if pat ≠ 0 then
    let one (p : Nat) : Nat × Bool :=
      if pat.testBit p then (if mag then scoreKey (s.masterValue m b (valueNo m.nc pat (p / 8) (p % 8))) else (0, false))
      else if comp then scoreKey (s.compValue m b pat p) else (0, false)
    let l := (List.range 64).map one
    (some (l.map (·.1)), if mag then sumAbs ((List.range m.perBlock).map (s.masterValue m b)) else 0, l.any (·.2))
  else if cand && (s.ext.near.field (m.base 0x70 + 16 * b.k) 16).testBit b.n then
    let l := (List.range 64).map fun p => scoreKey (s.candValue m b p)
    (some (l.map (·.1)), sumAbs ((List.range 64).map (s.candValue m b)), l.any (·.2))
  else (none, 0xBF800000, false)

/-- What a tile of SCORE reads: the live patterns and the planes that its source field selects. -/
def MaskRun.scoreReads (m : MaskRun) (src k : Nat) : List InRead :=
  let n := 8 - m.nc
  nearRead (m.plane false 1 + 1024 * k) 1024
    :: (if bit src 0 then [nearRead (m.plane false 2 + 512 * m.perBlock * k) (512 * m.perBlock)] else [])
    ++ (if bit src 1 then [nearRead (m.base 0x60 + 4096 * n * k) (4096 * n)] else [])
    ++ (if bit src 2 then [nearRead (m.base 0x68 + 32768 * k) 32768, nearRead (m.base 0x70 + 16 * k) 16] else [])

/-- One tile of SCORE. -/
def State.scoreRun (s : State) (m : MaskRun) (src k : Nat) : PieceEnd :=
  let l := (tileBlocks k).map fun b => (b, s.scoreBlock m (bit src 0) (bit src 1) (bit src 2) b)
  let keys := l.filterMap fun x => x.2.1.map fun v => outWrite (false, m.keyAddr x.1, keyBytes v)
  let scores := outWrite (false, m.base 0x80 + 512 * k, (l.map fun x => leBytes 4 x.2.2.1.toNat).flatten)
  s.maskPiece (m.scoreReads src k)
    { PieceOut.of (.score m src) (keys ++ [scores]) with events := if l.any fun x => x.2.2.2 then [0x0545] else [] }

/-- The checks of a SCORE, and its source field. -/
def State.checkScore (s : State) (x : Next) : Except Half (MaskRun × Nat) := do
  need (u8 x.raw 0xA < 8) 0x0103
  let m ← s.checkMask x 0xB []
  return (m, u8 x.raw 0xA)

/-! ### Ranking (R159) -/

/-- A score as it is compared; a NaN stands where the free value puts it. -/
def scoreOrd (x : Word) : Int := if fpIsNaN x then Config.nanRank x else fpOrd x

/-- Puts an entry (score, index) into a list ordered by score descending, then by index ascending. -/
def rankInsert {α : Type} (e : Int × Nat × α) : List (Int × Nat × α) → List (Int × Nat × α)
  | [] => [e]
  | y :: r => if y.1 < e.1 || (y.1 = e.1 && e.2.1 < y.2.1) then e :: y :: r else y :: rankInsert e r

def ranked {α : Type} (l : List (Int × Nat × α)) : List (Int × Nat × α) := l.foldl (fun acc e => rankInsert e acc) []

/-- The `q` lowest. -/
def lowest {α : Type} (q : Nat) (l : List (Int × Nat × α)) : List α := ((ranked l).reverse.take q).map (·.2.2)

/-- The `q` highest. -/
def highest {α : Type} (q : Nat) (l : List (Int × Nat × α)) : List α := ((ranked l).take q).map (·.2.2)

/-! ### PRUNE (R159, R160) -/

/-- A band's score: its block scores in ascending bc, an absent block counting 0. -/
def State.bandScore (s : State) (m : MaskRun) (l : List BlockAt) : Word :=
  sumRne (l.map fun b => if s.patternWord m b = 0 then 0 else s.scoreOf m b)

/-- Drop word of a block that is not pruned whole. -/
def State.dropOf (s : State) (m : MaskRun) (k pat : Nat) (b : BlockAt) : Nat :=
  let ps := (List.range 64).filter pat.testBit
  ((lowest k (ps.map fun p => ((s.keyOf m b p : Int), p, p))).map fun p => 2 ^ p).sum

/-- Ranges of the planes of some tiles that a selection reads: index, key, score, and drop. -/
def MaskRun.selectReads (m : MaskRun) (drop : Bool) (tiles : List Nat) : List InRead :=
  (tiles.map fun k => [nearRead (m.plane false 1 + 1024 * k) 1024, nearRead (m.base 0x78 + 16384 * k) 16384, nearRead (m.base 0x80 + 512 * k) 512]
    ++ if drop then [nearRead (m.base 0x88 + 1024 * k) 1024] else []).flatten

/-- The tiles of a 64-column strip. -/
def MaskRun.stripTiles (m : MaskRun) (st : Nat) : List Nat := (List.range m.d.down).map fun r => r * m.d.across + st / 2

/-- The pieces of PRUNE: tiles, in BAND mode strip by strip (R160), piece strip × (tiles down) + row. -/
def MaskRun.prunePieces (m : MaskRun) (mode : Nat) : List Piece :=
  (List.range (if mode = 2 then 2 * m.d.across * m.d.down else m.d.tileCount)).map .one

/-- The strip, or else the tile, whose blocks compete with those of a piece. -/
def MaskRun.rankUnit (m : MaskRun) (mode i : Nat) : Nat := if mode = 2 then i / m.d.down else i

def MaskRun.pieceBlocks (m : MaskRun) (mode i : Nat) : List BlockAt :=
  if mode = 2 then (((m.stripBands (i / m.d.down)).drop (8 * (i % m.d.down))).take 8 |>.map (·.2)).flatten else tileBlocks i

/-- A piece reads its tile, or the first of a strip the whole strip. -/
def MaskRun.pruneReads (m : MaskRun) (mode i : Nat) : List InRead :=
  if mode = 2 then (if i % m.d.down = 0 then m.selectReads false (m.stripTiles (i / m.d.down)) else []) else m.selectReads false [i]

/-- The blocks of a unit that are pruned whole. -/
def State.prunedBlocks (s : State) (m : MaskRun) (mode q i : Nat) : List BlockAt :=
  if mode = 1 then
    lowest q (((tileBlocks i).filter fun b => s.patternWord m b ≠ 0).map fun b => (scoreOrd (s.scoreOf m b), b.n, b))
  else if mode = 2 then
    let bands := (m.stripBands i).filter fun x => x.2.any fun b => s.patternWord m b ≠ 0
    (lowest q (bands.map fun x => (scoreOrd (s.bandScore m x.2), x.1, x.2))).flatten
  else []

/-- One piece of PRUNE. -/
def State.pruneRun (s : State) (m : MaskRun) (mode drop quota : Nat) (sum : PruneSum) (i : Nat) : PieceEnd :=
  let gone := s.prunedBlocks m mode quota (m.rankUnit mode i)
  let l := (m.pieceBlocks mode i).map fun b =>
    let pat := s.patternWord m b
    (b, pat, if gone.contains b then pat else s.dropOf m drop pat b)
  let whole := l.filter fun x => x.2.1 ≠ 0 && x.2.2 = x.2.1
  let part := l.filter fun x => x.2.2 ≠ x.2.1
  let sum1 : PruneSum := { positions := sum.positions + (part.map fun x => popcount x.2.2 64).sum, blocks := sum.blocks + whole.length }
  let reads := if mode = 2 then m.selectReads false (m.stripTiles (i / m.d.down)) else m.pruneReads mode i
  s.maskPiece reads (PieceOut.of (.prune m mode drop quota sum1) (l.map fun x => outWrite (false, m.dropAddr x.1, leBytes 8 x.2.2)))

/-- A mask command has done its tiles: stages of writes to the record follow, and it completes. -/
def State.maskDone (s : State) (n : Fin 32) (f : InFlight) (stages : List (List (Bool × Nat × List Byte))) : State :=
  (s.modFlight n f.ref fun f => { f with stages := stages }).completeCmd n f.ref 0x01

/-- PRUNE ends with its counters, and then shadow_word (R159, R172). -/
def State.pruneDone (s : State) (n : Fin 32) (f : InFlight) (m : MaskRun) (t : PruneSum) : State :=
  s.maskDone n f [[(false, m.d.maskRec + 0x90, leBytes 4 t.positions ++ leBytes 4 t.blocks)],
    [(false, m.d.maskRec + 8, leBytes 8 (1 + 2 ^ 32 * m.version.toNat))]]

/-- The checks of a PRUNE: its block mode, drop count and quota. -/
def State.checkPrune (s : State) (x : Next) : Except Half (MaskRun × Nat × Nat × Nat) := do
  need (u8 x.raw 0xA < 3 && (u8 x.raw 0xA != 1 || u16 x.raw 0xC < 128)) 0x0103
  let m ← s.checkMask x 0xE []
  need (u8 x.raw 0xB ≤ 4 * m.nc) 0x0103
  return (m, u8 x.raw 0xA, u8 x.raw 0xB, u16 x.raw 0xC)

/-! ### The selection (R162, R163) -/

/-- A selection in progress: the selected positions, the swaps made, and the survivors that they displaced. -/
structure Selection where
  sel : Nat
  swaps : Nat
  displaced : Nat
deriving DecidableEq, Repr

def Selection.has (x : Selection) (r c : Nat) : Bool := x.sel.testBit (8 * r + c)
def Selection.rows (x : Selection) (r : Nat) : Nat := ((List.range 8).filter fun c => x.has r c).length
def Selection.cols (x : Selection) (c : Nat) : Nat := ((List.range 8).filter fun r => x.has r c).length
def Selection.put (x : Selection) (r c : Nat) : Selection := { x with sel := x.sel + 2 ^ (8 * r + c) }

/-- The greedy pass over the positions in order of key descending, then position. -/
def greedy (key : List Nat) (nc : Nat) : Selection :=
  let order := (ranked ((List.range 64).map fun p => ((key.getD p 0 : Int), p, p))).map (·.2.2)
  order.foldl (fun (x : Selection) p => if x.rows (p / 8) < nc && x.cols (p % 8) < nc then x.put (p / 8) (p % 8) else x) ⟨0, 0, 0⟩

/-- The swaps open to row r: gain, then (c1, r2, c2) in the order of the tie rule. -/
def Selection.swapsOf (x : Selection) (key : List Nat) (nc r : Nat) : List (Int × Nat × Nat × Nat × Nat) :=
  let k (a b : Nat) : Int := (key.getD (8 * a + b) 0 : Nat)
  ((List.range 512).map fun i => (i / 64, i / 8 % 8, i % 8)).filterMap fun t =>
    let (c1, r2, c2) := t
    if !x.has r c1 && x.has r2 c1 && !x.has r2 c2 && x.cols c2 < nc then
      some (k r c1 + k r2 c2 - k r2 c1, 64 * c1 + 8 * r2 + c2, c1, r2, c2)
    else none

/-- One iteration of the completion loop for the lowest row that lacks a position. -/
def Selection.complete (x : Selection) (key : List Nat) (nc r : Nat) : Selection :=
  let k (c : Nat) : Int := (key.getD (8 * r + c) 0 : Nat)
  let direct := ((List.range 8).filter fun c => !x.has r c && x.cols c < nc).map fun c => (k c, c, c)
  match highest 1 direct with
  | c :: _ => x.put r c
  | [] =>
    match highest 1 (x.swapsOf key nc r) with
    | (c1, r2, c2) :: _ =>
      let gone := 8 * r2 + c1
      { sel := x.sel + 2 ^ (8 * r + c1) + 2 ^ (8 * r2 + c2) - 2 ^ gone, swaps := x.swaps + 1
        displaced := x.displaced + boolNat (decide (65536 ≤ key.getD gone 0)) }
    | [] => x

/-- The completion loop: it runs at most 8·n_c times. -/
def Selection.finish (key : List Nat) (nc : Nat) : Nat → Selection → Selection
  | 0, x => x
  | fuel + 1, x =>
    match (List.range 8).find? fun r => x.rows r < nc with
    | some r => Selection.finish key nc fuel (x.complete key nc r)
    | none => x

def selectBlock (key : List Nat) (nc : Nat) : Selection := (greedy key nc).finish key nc (8 * nc)

/-! ### REGROW (R161, R164) -/

def RegrowSum.join (a b : RegrowSum) : RegrowSum :=
  ⟨a.regrown + b.regrown, a.revived + b.revived, a.swaps + b.swaps, a.displaced + b.displaced, (a.checksum + b.checksum) % 2 ^ 64⟩

/-- The absent blocks of a unit that are revived. -/
def State.revivedBlocks (s : State) (m : MaskRun) (mode q i : Nat) : List BlockAt :=
  let free (b : BlockAt) : Bool := s.patternWord m b == 0 && fpLe 0 (s.scoreOf m b)
  if mode = 1 then highest q (((tileBlocks i).filter free).map fun b => (scoreOrd (s.scoreOf m b), b.n, b))
  else if mode = 2 then
    let bands := (m.stripBands i).filter fun x => x.2.all free
    (highest q (bands.map fun x => (scoreOrd (sumRne (x.2.map (s.scoreOf m))), x.1, x.2))).flatten
  else []

/-- key17 of a position (R162). -/
def State.key17 (s : State) (m : MaskRun) (b : BlockAt) (pat drop p : Nat) : Nat :=
  if pat.testBit p then (if drop.testBit p then 0 else 65536 + s.keyOf m b p) else s.keyOf m b p

/-- The new pattern of a block, with its swaps. -/
def State.newPattern (s : State) (m : MaskRun) (revived : Bool) (b : BlockAt) : Selection :=
  let pat := s.patternWord m b
  let drop := s.dropWord m b
  if revived then selectBlock ((List.range 64).map (s.keyOf m b)) m.nc
  else if pat = 0 || drop = pat then ⟨0, 0, 0⟩
  else if drop = 0 then ⟨pat, 0, 0⟩
  else selectBlock ((List.range 64).map (s.key17 m b pat drop)) m.nc

/-- For each value of the new pattern of a block, the old value number that it keeps. -/
def movedFrom (nc pat sel : Nat) : List (Option Nat) :=
  (valueOrder sel).map fun p => if pat.testBit p then some (valueNo nc pat (p / 8) (p % 8)) else none

/-- The bytes of a plane of codes. -/
def codePlane (f : Form) (codes : List Nat) : List Byte :=
  if f.width = 8 then codes.map (BitVec.ofNat 8)
  else
    let n := codes.length / 8
    ((List.range 4).map fun j => (List.range n).map fun i =>
      BitVec.ofNat 8 (((List.range 8).map fun b => if (codes.getD (8 * i + b) 0).testBit j then 2 ^ b else 0).sum)).flatten

/-- The shadow planes of one tile (R164). `news` gives the new pattern of each of its blocks, in order. -/
def State.shadowTile (s : State) (m : MaskRun) (k : Nat) (news : List Nat) : List (Bool × Nat × List Byte) :=
  let n := m.perBlock * 128
  let all := m.d.tileCount * n
  let nb := all / 256
  let first (base : Nat) : Nat := base + roundPage (16 * nb)
  let second (base : Nat) : Nat := base + roundPage (roundPage (16 * nb) + 256 * nb)
  let src := ((tileBlocks k).zip news).map fun x =>
    let l := movedFrom m.nc (s.patternWord m x.1) x.2
    if l.isEmpty then List.replicate m.perBlock none else l.map fun v => v.map fun o => m.perBlock * x.1.n + o
  let from_ (f : Nat → Nat) : List Nat := src.flatten.map fun v => match v with | some o => f o | none => 0
  let live (i : Nat) : Nat := m.plane false i
  let shadow (i : Nat) : Nat := m.plane true i
  let b := m.d.form.width
  let value (o : Nat) : Nat := elemAt m.d.form n (s.extByte false (live 0 + k * (n * b / 8))) o
  let byteAt (base o : Nat) : Nat := (s.ext.near.read (base + n * k + o)).toNat
  let heads := n / 16
  [(false, shadow 0 + k * (n * b / 8), codePlane m.d.form (from_ value)),
    (false, shadow 1 + 1024 * k, (news.map (leBytes 8)).flatten),
    (false, shadow 2 + 4 * n * k, ((from_ fun o => s.ext.near.field (live 2 + 4 * (n * k + o)) 4).map (leBytes 4)).flatten),
    (false, shadow 3 + heads * k, s.near (live 3 + heads * k) heads),
    (false, first (shadow 3) + n * k, (from_ (byteAt (first (live 3)))).map (BitVec.ofNat 8)),
    (false, second (shadow 3) + n * k, (from_ (byteAt (second (live 3)))).map (BitVec.ofNat 8))]

/-- Ranges of the live planes of a tile. -/
def MaskRun.liveReads (m : MaskRun) (k : Nat) : List InRead :=
  let n := m.perBlock * 128
  let nb := m.d.tileCount * n / 256
  let st := m.plane false 3
  let p := n * m.d.form.width / 8
  [nearRead (m.plane false 0 + k * p) p, nearRead (m.plane false 2 + 4 * n * k) (4 * n), nearRead (st + n / 16 * k) (n / 16),
    nearRead (st + roundPage (16 * nb) + n * k) n, nearRead (st + roundPage (roundPage (16 * nb) + 256 * nb) + n * k) n]

/-- A tile of REGROW reads its own planes, and in BAND mode the first of a column of tiles the selection planes of them all. -/
def MaskRun.regrowReads (m : MaskRun) (mode k : Nat) : List InRead :=
  (if mode = 2 then (if k < m.d.across then m.selectReads true (m.stripTiles (2 * k)) else []) else m.selectReads true [k]) ++ m.liveReads k

/-- The revived blocks of the tile k: in BAND mode those of both of its strips. -/
def State.revivedIn (s : State) (m : MaskRun) (mode q k : Nat) : List BlockAt :=
  let st := 2 * (k % m.d.across)
  if mode = 2 then (s.revivedBlocks m mode q st ++ s.revivedBlocks m mode q (st + 1)).filter fun b => b.k = k
  else s.revivedBlocks m mode q k

/-- shadow_word of a shadow set in state `st` (Table 07-1). -/
def MaskRun.shadowWord (m : MaskRun) (st : Nat) : Bool × Nat × List Byte :=
  (false, m.d.maskRec + 8, leBytes 8 (st + 2 ^ 32 * (w32 m.rec_ 0xC).toNat))

/-- One tile of REGROW. Before the first plane write shadow_word says PRUNED, and that write has its response (R164). -/
def State.regrowRun (s : State) (m : MaskRun) (mode quota : Nat) (sum : RegrowSum) (k : Nat) : PieceEnd :=
  let revived := s.revivedIn m mode quota k
  let sels := (tileBlocks k).map fun b => (b, s.newPattern m (revived.contains b) b)
  let news := sels.map fun x => x.2.sel
  let one : RegrowSum :=
    { regrown := (sels.map fun x => popcount (x.2.sel - (x.2.sel &&& s.patternWord m x.1)) 64).sum, revived := revived.length
      swaps := (sels.map fun x => x.2.swaps).sum, displaced := (sels.map fun x => x.2.displaced).sum, checksum := news.sum % 2 ^ 64 }
  let planes := s.shadowTile m k news
  let o := PieceOut.of (.regrow m mode quota (sum.join one)) []
  let tiles := if mode = 2 then m.stripTiles (2 * (k % m.d.across)) else [k]
  s.maskPiece (m.selectReads true tiles ++ m.liveReads k)
    (if k = 0 then { o with writes := [outWrite (m.shadowWord 1)], stages := [planes] } else { o with writes := planes.map outWrite })

/-- REGROW ends with the shadow set's checksum and its counters, and then READY (R164). -/
def State.regrowDone (s : State) (n : Fin 32) (f : InFlight) (m : MaskRun) (t : RegrowSum) : State :=
  let a := m.d.maskRec
  let sumAt := if maskSet m.rec_ true = 0x20 then 0x10 else 0x18
  s.maskDone n f [[(false, a + sumAt, leBytes 8 t.checksum),
    (false, a + 0x98, leBytes 4 t.regrown ++ leBytes 4 t.revived ++ leBytes 4 t.swaps ++ leBytes 4 t.displaced)], [m.shadowWord 2]]

/-- The checks of a REGROW: its revive mode and quota. -/
def State.checkRegrow (s : State) (x : Next) : Except Half (MaskRun × Nat × Nat) := do
  need (u8 x.raw 0xA < 3) 0x0103
  let m ← s.checkMask x 0xE [(0xB, 1)]
  need (m.shadowState != 0 && w32 m.rec_ 0xC == m.version) 0x0541
  return (m, u8 x.raw 0xA, u16 x.raw 0xC)

/-! ### COMMIT (R168) -/

/-- A stale shadow is a no-op; else the record is written whole, and the command completes at the response. -/
def State.startCommit (s : State) (x : Next) (m : MaskRun) : State :=
  if w32 m.rec_ 0xC ≠ m.version then ((s.issueNext x x.flight).eventOnce x.n x.ref 0x0543 .seqPair s.leadIx).completeCmd x.n x.ref 0x03
  else
    s.withRecord x m x.flight fun s1 =>
      let live := 1 - u32 m.rec_ 4 % 2
      let b := setField (setField (setField m.rec_ 0 4 (m.version + 1).toNat) 4 4 live) 8 4 0
      (State.settleWrites x.n x.ref [(false, m.d.maskRec, b)] s1).1.completeCmd x.n x.ref 0x01

/-- The checks of a COMMIT. -/
def State.checkCommit (s : State) (x : Next) : Except Half MaskRun := do
  let m ← s.checkMask x 0xA []
  need (m.shadowState == 2) 0x0541
  return m

/-- COMMIT. -/
def execCommit (s : State) : Host.Outcome State Fault Refusal := .next (s.issueWith [0x62] State.checkCommit s.startCommit)

end Sys2Proof.Machine
end

