-- ==== Sys2Proof/Machine/Roster.lean ====
section
/-! DEFINITION. Rollout (chapter 12): ROSTER_STEP with its fill wait and build (R292 to R299), and retire with sampling (R301 to R303,
R306). The body's commands issue through the fetch stage (R298). -/

namespace Sys2Proof.Machine

/-! ### The roster table (Tables 12-1 to 12-3) -/

def State.stateWord (s : State) (base i : Nat) : Nat := s.ext.near.field (rosterWordAddr base i) 8
def entryState (w : Nat) : Nat := w % 16

/-- NEW, READY or LISTED. -/
def liveState (w : Nat) : Bool := entryState w = 1 || entryState w = 2 || entryState w = 3
def readySeq (w : Nat) : Nat := w / 2 ^ 32

/-- A state word. -/
def stateWordOf (st : Nat) (fell : Bool) (reason pin24 seq : Nat) : Nat :=
  st + 16 * boolNat fell + 32 * reason + 256 * (pin24 % 2 ^ 24) + 2 ^ 32 * (seq % 2 ^ 32)

def entryFell (w : Nat) : Bool := w.testBit 4
def entryPin24 (w : Nat) : Nat := w / 256 % 2 ^ 24

/-- The bindings of a header (R298). -/
def readBindings (b : List Byte) : List Binding :=
  (List.range 32).filterMap fun i =>
    let o := 0x70 + 4 * i
    if u16 b o = 0xFFFF then none else some { desc := u16 b o, mode := u8 b (o + 2), heads := u8 b (o + 3) }

/-- The templates of a header (R299). -/
def readTemplates (b : List Byte) : List (Word × Word × Word × Nat) :=
  (List.range 4).map fun j =>
    let o := 0x30 + 16 * j
    (w32 b o, w32 b (o + 4), w32 b (o + 8), u32 b (o + 12))

/-- R292: the ranges of a header. -/
def rosterHeaderOk (b : List Byte) : Bool :=
  let small (o : Nat) : Bool := 1 ≤ u16 b o && u16 b o ≤ 8192
  small 0 && small 2 && small 4 && zeroRange b 6 2 && u32 b 8 != 0 && u32 b 0xC % 2 ^ 24 != u32 b 8 % 2 ^ 24 && u32 b 0x1C != 0
    && 1 ≤ u16 b 0x24 && u16 b 0x24 ≤ 4096 && zeroRange b 0x26 10 && zeroRange b 0xF0 3856
    && (readTemplates b).all (fun t => 1 ≤ t.2.2.2 && t.2.2.2 ≤ 16)
    && (readBindings b).all fun d => 1 ≤ d.mode && d.mode ≤ 3 && 1 ≤ d.heads && d.heads ≤ 16

/-- Bytes of a work list (R297). -/
def workListSize : Nat := 0x820000

/-! ### Issue (R296) -/

def State.checkRoster (s : State) (x : Next) : Except Half Roster := do
  let b := x.raw
  let j := x.job.desc
  x.check 0x24 []
  let base := u64 b 8
  let wl := u64 b 0x10
  let body := u64 b 0x18
  need (base != 0 && base % 4096 == 0 && wl != 0 && wl % 4096 == 0 && body != 0 && body % 64 == 0) 0x0103
  need (1 ≤ u16 b 0x22 && u16 b 0x22 ≤ 8192) 0x0103
  let h ← s.record j base 4096 0x0107
  need (rosterHeaderOk h) 0x0120
  let n := u16 h 0
  need (j.mayWrite false base 4096 && j.mayWrite false (base + 0x1000) (8 * n) && j.mayWrite false (base + 0x11000) (64 * n)
    && j.mayWrite false wl workListSize && j.mayRead false body 64) 0x0201
  let logits ← s.readDesc j (u16 h 0x20)
  need (logits.form == .fp32 && logits.layout == .tiles) 0x0103
  need (logits.cols % u16 h 0x24 == 0) 0x0120
  if u16 h 0x22 != 0xFFFF then
    let g ← s.readDesc j (u16 h 0x22)
    need (g.form == .fp32 && !g.sparse) 0x0103
  let wait := if u16 b 0x20 = 0 then s.fillWait j else u16 b 0x20
  return {
    ref := x.ref, base := base, workList := wl, body := body, phase := .fillWait, target := Nat.min (u16 h 2) (u16 b 0x22)
    maxSeqs := u16 b 0x22, endBeat := s.beatNow + BitVec.ofNat 64 wait, entries := n, kvSlots := u16 h 4, curVersion := w32 h 8
    prevVersion := w32 h 0xC, vocab := u32 h 0x1C, logitsDesc := u16 h 0x20, gmaxDesc := u16 h 0x22, groups := u16 h 0x24
    templates := readTemplates h, bindings := readBindings h, listed := [], alt := false, bodyPos := 0, bodyDone := false
    poisoned := [], fellBack := false }

/-- ROSTER_STEP issues and its fill wait begins. -/
def execRosterStep (s : State) : Host.Outcome State Fault Refusal :=
  .next (s.issueWith [0x70] State.checkRoster fun x ro =>
    let s1 := s.issueNext x x.flight
    s1.modJob x.n fun j => { j with roster := some ro })

/-! ### The build (R294, R296, R297, R299) -/

/-- An entry of the build: its index, its state word, and its resolved pin. -/
structure Candidate where
  i : Nat
  word : Nat
  seq : Nat
  pin : Word
deriving DecidableEq, Repr

def Roster.entryAddr (ro : Roster) (i : Nat) : Nat := rosterEntryAddr ro.base i
def Roster.wordAddr (ro : Roster) (i : Nat) : Nat := rosterWordAddr ro.base i

def State.entryBytes (s : State) (ro : Roster) (i : Nat) : List Byte := s.near (ro.entryAddr i) 64

/-- The resolved pin of an entry: pin 0 resolves to the current version. -/
def State.resolvedPin (s : State) (ro : Roster) (i : Nat) : Word :=
  let p := w32 (s.entryBytes ro i) 0x20
  if p = 0 then ro.curVersion else p

def Roster.pinOk (ro : Roster) (p : Word) : Bool := p == ro.curVersion || (ro.prevVersion != 0 && p == ro.prevVersion)

/-- The entries that are or become READY, with their ready_seq, and next_ready after the scan. -/
def State.rosterScan (s : State) (ro : Roster) (next : Nat) : List Candidate × Nat :=
  (List.range ro.entries).foldl (fun (x : List Candidate × Nat) i =>
    let w := s.stateWord ro.base i
    let st := entryState w
    if st = 1 then (x.1 ++ [{ i := i, word := w, seq := x.2, pin := s.resolvedPin ro i }], (x.2 + 1) % 2 ^ 32)
    else if st = 2 || st = 3 then (x.1 ++ [{ i := i, word := w, seq := readySeq w, pin := s.resolvedPin ro i }], x.2)
    else x) ([], next)

/-- NEW and READY entries, as the fill wait counts them. -/
def State.rosterCount (s : State) (ro : Roster) : Nat :=
  ((List.range ro.entries).filter fun i => let st := entryState (s.stateWord ro.base i); st = 1 || st = 2).length

/-- R296 step 3: the checks of an entry that is to be listed. -/
def entryOk (ro : Roster) (e : List Byte) : Bool :=
  u16 e 8 < ro.kvSlots && 1 ≤ u16 e 0x38 && u16 e 0x38 ≤ 64 && fpIsFinite (w32 e 0x24) && fpLe 0 (w32 e 0x24) && u32 e 0xC != 0
    && u32 e 0xC ≤ u32 e 0x10 + 1 && u32 e 0x10 + 1 < u32 e 0x18 && u64 e 0x30 % 512 == 0

/-- Inserts by ready_seq; ties keep their order. -/
def seqInsert (c : Candidate) : List Candidate → List Candidate
  | [] => [c]
  | y :: r => if c.seq < y.seq then c :: y :: r else y :: seqInsert c r

def bySeq (l : List Candidate) : List Candidate := l.foldl (fun acc c => seqInsert c acc) []

/-- The entries that a build lists and those that it finds invalid on the way. -/
def State.pickEntries (s : State) (ro : Roster) : Nat → List Candidate → List Candidate × List Candidate
  | _, [] => ([], [])
  | room, c :: r =>
    if room = 0 then ([], [])
    else if entryOk ro (s.entryBytes ro c.i) then let x := s.pickEntries ro (room - 1) r; (c :: x.1, x.2)
    else let x := s.pickEntries ro room r; (x.1, c :: x.2)

/-- Writes that end a sequence by a fault: its fault field and its state word. -/
def Roster.endWrites (ro : Roster) (i w : Nat) (code : Half) : List (Bool × Nat × List Byte) :=
  [(false, ro.entryAddr i + 0x3A, leBytes 2 code.toNat),
    (false, ro.wordAddr i, leBytes 8 (stateWordOf 5 (entryFell w) 4 (entryPin24 w) (readySeq w)))]

/-- A selector's value for an entry (R299). -/
def selectorValue (sel : Word) (len count : Nat) : Nat :=
  if sel = 0xFFFFFFFF then len + 1 else if sel = 0xFFFFFFFE then count else sel.toNat

/-- A bounds entry (R275): P, K, N and a zero word. -/
def boundsBytes (t : Word × Word × Word × Nat) (len count : Nat) : List Byte :=
  leBytes 4 (selectorValue t.1 len count) ++ leBytes 4 (selectorValue t.2.1 len count) ++ leBytes 4 (selectorValue t.2.2.1 len count) ++ leBytes 4 0

/-- An INT32 list of the work list: its entries, then −1 as far as the last build used it. -/
def padList (l : List Nat) (used : Nat) : List Byte :=
  (l.map (leBytes 4)).flatten ++ (List.replicate (used - l.length) (leBytes 4 0xFFFFFFFF)).flatten

/-- The work list of a build (Table 12-4), over what the last build used. -/
def State.workListWrites (s : State) (ro : Roster) (v : Word) (alt : Bool) (reason : Nat) (lens : List (Nat × Nat × Nat)) :
    List (Bool × Nat × List Byte) :=
  let a := ro.workList
  let oldCount := Nat.min (s.ext.near.field a 4) 8192
  let oldUsed := Nat.min (s.ext.near.field (a + 0x18) 4) 131072
  let count := lens.length
  let used := (ro.templates.map fun t => count * t.2.2.2).foldl Nat.max 0
  let array (x : (Word × Word × Word × Nat) × Nat) : Bool × Nat × List Byte :=
    let t := x.1
    let body := (lens.map fun e => (List.replicate t.2.2.2 (boundsBytes t e.2.2 count)).flatten).flatten
    (false, a + 0x20000 + 0x200000 * x.2, body ++ List.replicate (16 * (oldUsed - count * t.2.2.2)) 0)
  [(false, a, leBytes 4 count ++ leBytes 4 v.toNat ++ leBytes 1 (boolNat alt) ++ leBytes 1 reason ++ leBytes 6 0
      ++ leBytes 8 s.beatNow.toNat ++ leBytes 4 used),
    (false, a + 0x1000, padList (lens.map (·.1)) oldCount),
    (false, a + 0x9000, padList (lens.map (·.2.1)) oldCount),
    (false, a + 0x11000, padList (lens.map (·.2.2)) oldCount)]
    ++ (ro.templates.zipIdx.map array)

/-- What a build decides: the sequences that it ends with their codes, those that it lists, the live entries that it leaves, and the version. -/
structure Build where
  live : List Candidate
  ended : List (Candidate × Half)
  listed : List Candidate
  promoted : List Candidate
  version : Word
  next : Nat
deriving DecidableEq, Repr

/-- Live entries that are pinned to a version after a build. -/
def Build.liveCount (b : Build) (v : Word) : Nat := (b.live.filter fun c => v != 0 && c.pin == v).length

def State.planBuild (s : State) (ro : Roster) : Build :=
  let (all, next) := s.rosterScan ro (s.ext.near.field (ro.base + 0x10) 4)
  let wrong := all.filter fun c => !ro.pinOk c.pin
  let good := bySeq (all.filter fun c => ro.pinOk c.pin)
  match good with
  | [] => { live := [], ended := wrong.map fun c => (c, 0x0121), listed := [], promoted := all.filter fun c => entryState c.word = 1, version := 0, next := next }
  | c :: _ =>
    let (listed, bad) := s.pickEntries ro ro.maxSeqs (good.filter fun y => y.pin = c.pin)
    { live := good.filter (!bad.contains ·), ended := (wrong.map fun c => (c, 0x0121)) ++ bad.map fun c => (c, 0x0124), listed := listed
      promoted := all.filter fun c => entryState c.word = 1, version := c.pin, next := next }

/-- The writes of a build to the entries. -/
def Roster.entryWrites (ro : Roster) (b : Build) : List (Bool × Nat × List Byte) :=
  (b.promoted.map fun c =>
      (false, ro.wordAddr c.i, leBytes 8 (stateWordOf 2 (entryFell c.word) 0 (entryPin24 c.word) c.seq)))
    ++ (b.ended.map fun x => ro.endWrites x.1.i (stateWordOf 0 (entryFell x.1.word) 0 (entryPin24 x.1.word) x.1.seq) x.2).flatten
    ++ (b.listed.map fun c =>
      [(false, ro.entryAddr c.i + 0x20, leBytes 4 c.pin.toNat),
        (false, ro.wordAddr c.i, leBytes 8 (stateWordOf 3 (entryFell c.word) 0 c.pin.toNat c.seq))]).flatten

/-- The build reads poison. -/
def State.buildPoison (s : State) (ro : Roster) : Bool :=
  s.ext.poisoned false (ro.base + 0x1000) (8 * ro.entries) || s.ext.poisoned false ro.base 512 || s.ext.poisoned false ro.workList 32
    || (List.range ro.entries).any fun i => liveState (s.stateWord ro.base i) && s.ext.poisoned false (ro.entryAddr i) 64

/-- What the lead pair reads for the fill wait, and for the build round by round (R296, R297): the state words with the header and what the last build used;
then each live entry. -/
def State.buildReads (s : State) (ro : Roster) (x phase : Nat) : Option (List InRead) :=
  let words := nearRead (ro.base + 0x1000) (8 * ro.entries)
  match x, phase with
  | 0, 0 => some [words]
  | _ + 1, 0 => some [words, nearRead ro.base 512, nearRead ro.workList 32]
  | _ + 1, 1 => some (((List.range ro.entries).filter fun i => liveState (s.stateWord ro.base i)).map fun i => nearRead (ro.entryAddr i) 64)
  | _, _ => none

/-- The count of a beat of the fill wait: the build follows once it reaches the target (R296). -/
def State.countRun (s : State) (ro : Roster) : PieceEnd :=
  if s.ext.poisoned false (ro.base + 0x1000) (8 * ro.entries) then .fault 0x0107 .cmd
  else .done { PieceOut.of (.build false none) [] with more := if ro.target ≤ s.rosterCount ro then [.one 1] else [] }

/-- The build; `expired` when the fill wait ended below its target. The live counts follow the entries and the work list. -/
def State.buildRun (s : State) (ro : Roster) (expired : Bool) : PieceEnd :=
  if s.buildPoison ro then .fault 0x0107 .cmd
  else
    let b := s.planBuild ro
    let alt := b.version != 0 && b.version != ro.curVersion
    let reason := if b.listed.length = ro.maxSeqs then 3 else if expired then 2 else 1
    let lens := b.listed.map fun c => let e := s.entryBytes ro c.i; (c.i, u32 e 0x14, u32 e 0x10)
    let live := leBytes 4 b.next ++ leBytes 4 (b.liveCount ro.curVersion) ++ leBytes 4 (b.liveCount ro.prevVersion)
    .done { PieceOut.of (.build expired (some (b.listed.map (·.i), alt))) ((ro.entryWrites b ++ s.workListWrites ro b.version alt reason lens).map outWrite) with
      stages := [[(false, ro.base + 0x10, live)]], events := if expired then [0x0126] else [], retired := b.ended.map fun x => (x.1.i, x.2) }

/-- A fill wait whose count is short waits for the next beat. After a build with nothing listed the command ends, else its body begins. -/
def State.buildDone (s : State) (n : Fin 32) (f : InFlight) (listed : Option (List Nat × Bool)) : State :=
  let s1 := s.modFlight n f.ref fun f => { f with work := none }
  match listed with
  | none => s1
  | some ([], _) => s1.completeCmd n f.ref 0x03
  | some (l, alt) => s1.modJob n fun j => { j with roster := j.roster.map fun ro => { ro with phase := .body, listed := l, alt := alt } }

/-- The ROSTER_STEP in progress in the given phase, where its work may go on. -/
def State.rosterIn (s : State) (p : RosterPhase) : Option (Fin 32 × Job × Roster × InFlight) :=
  match s.running with
  | none => none
  | some (n, j) =>
    match j.roster with
    | none => none
    | some ro =>
      match s.flight n ro.ref with
      | none => none
      | some f =>
        if ro.phase = p && f.ending.isNone && f.faulted.isNone && !j.ended && s.mayWork f && !s.unitHeld .seqPair s.leadIx then some (n, j, ro, f)
        else none

/-! ### Sampling (R302, R303) -/

/-- The sampling key: SplitMix64 of the seed and the position. -/
def sampleKey (seed : DWord) (pos : Nat) : Nat :=
  let z0 := seed + BitVec.ofNat 64 pos * 0x9E3779B97F4A7C15
  let z1 := (z0 ^^^ (z0 >>> 30)) * 0xBF58476D1CE4E5B9
  let z2 := (z1 ^^^ (z1 >>> 27)) * 0x94D049BB133111EB
  ((z2 ^^^ (z2 >>> 31)) >>> 40).toNat

/-- The first `k` entries of the order of score descending, then index ascending. -/
def topK {α : Type} (k : Nat) (l : List (Int × Nat × α)) : List (Int × Nat × α) := l.foldl (fun acc e => (rankInsert e acc).take k) []

/-- The columns of the row that are candidates. `gmax` holds the group maxima where they are named. -/
def candidateColumns (gmax : Option (List Word)) (cols groups k : Nat) : List Nat :=
  match gmax with
  | none => List.range cols
  | some m =>
    let top := topK k ((m.zipIdx).map fun x => (scoreOrd x.1, x.2, x.1))
    match top.getLast? with
    | none => List.range cols
    | some t =>
      let hit := (List.range m.length).filter fun g => fpLe t.2.2 (m.getD g 0)
      let w := cols / groups
      if hit.length > 4 * k then List.range cols else (hit.map fun g => rangeFrom (g * w) w).flatten

/-- The weights of the first candidates: exp((l − l0) × inv), 0 for −Inf. -/
def sampleWeights (inv : Word) : List Word → List Word
  | [] => []
  | l0 :: r => (l0 :: r).map fun l => if l = fpInf true then 0 else fpExpFn (fpMul (fpSub l l0) inv)

/-- The first candidate whose running sum exceeds the threshold, else the last. -/
def pickAbove (thr : Word) : Word → List (Word × Nat) → Option Nat
  | _, [] => none
  | sum, (w, c) :: r =>
    let t := fpAdd sum w
    if fpLt thr t || r.isEmpty then some c else pickAbove thr t r

/-- R303 on a row of logits; none where a candidate is NaN or +Inf. -/
inductive Sample
  | token (t : Word)
  | bad
deriving DecidableEq, Repr

def sampleRow (row : Nat → Word) (cand : List Nat) (vocab k : Nat) (temp : Word) (u fresh : Nat) : Sample :=
  let l := (cand.filter (· < vocab)).map fun c => (c, row c)
  if l.any fun x => fpIsNaN x.2 || x.2 = fpInf false then .bad
  else
    let top := (topK k (l.map fun x => (scoreOrd x.2, x.1, x.2))).map fun x => (x.2.2, x.2.1)
    match top with
    | [] => .token (Config.freeWord fresh)
    | (_, c) :: _ =>
      if fpIsZero temp || k = 1 then .token (BitVec.ofNat 32 c)
      else
        let ws := sampleWeights (fpRecip temp) (top.map (·.1))
        let thr := fpMul (fpScaled false u (-24)) (sumRne ws)
        .token (BitVec.ofNat 32 ((pickAbove thr 0 (ws.zip (top.map (·.2)))).getD c))

/-! ### Retire (R301, R306) -/

/-- What retire does for a list entry: its token, or the fault that ends it. -/
inductive Retired
  | token (t : Word)
  | fault (code : Half)
deriving DecidableEq, Repr

/-- Element (r, c) of a FP32 tensor in external memory, and its poison. -/
def State.fpElem (s : State) (d : Desc) (r c : Nat) : Word × Bool :=
  if d.layout = .rows then
    let a := d.base + r * d.itemStride + 4 * c
    (BitVec.ofNat 32 ((s.ext.mem d.far).field a 4), s.ext.poisoned d.far a 4)
  else (BitVec.ofNat 32 (s.extElem d 0 r c), s.elemBad d r c)

/-- Ranges of some elements of row `r` of a FP32 tensor. -/
def Desc.rowElems (d : Desc) (r : Nat) (cols : List Nat) : List InRead :=
  let at_ (c : Nat) : Nat :=
    if d.layout = .rows then d.base + r * d.itemStride + 4 * c
    else d.tileAddr 0 (r / 64 * d.across + c / 64) + 256 * (r % 64) + 4 * (c % 64)
  (joinRanges (cols.map fun c => (at_ c, 4))).map fun x => { far := d.far, addr := x.1, size := x.2, unit := 0 : InRead }

/-- The group maxima of a list entry, with their poison. -/
def State.groupMaxima (s : State) (ro : Roster) (gmax : Option Desc) (i : Nat) : Option (List (Word × Bool)) :=
  gmax.map fun d => (List.range ro.groups).map fun g => s.fpElem d i g

/-- The columns of its logits that retire reads for list entry `i` (R303). -/
def State.candidates (s : State) (ro : Roster) (logits : Desc) (gmax : Option Desc) (i : Nat) : List Nat :=
  let e := s.entryBytes ro (ro.listed.getD i 0)
  candidateColumns ((s.groupMaxima ro gmax i).map fun l => l.map (·.1)) logits.cols ro.groups (u16 e 0x38)

/-- Address of the token of an entry (R301). -/
def tokenAddr (e : List Byte) : Nat := u64 e 0x30 + 4 * (u32 e 0x10 + 1 - u32 e 0xC)

def State.retireEntry (s : State) (ro : Roster) (j : JobDesc) (logits : Desc) (gmax : Option Desc) (i : Nat) : Retired :=
  match ro.poisoned.find? fun x => x.1 = i with
  | some x => .fault x.2
  | none =>
    let e := s.entryBytes ro (ro.listed.getD i 0)
    let cand := s.candidates ro logits gmax i
    let bad := ((s.groupMaxima ro gmax i).any fun l => l.any (·.2)) || cand.any fun c => (s.fpElem logits i c).2
    if bad then .fault 0x0202
    else
      match sampleRow (fun c => (s.fpElem logits i c).1) cand ro.vocab (u16 e 0x38) (w32 e 0x24) (sampleKey (w64 e 0x28) (u32 e 0x10 + 1)) s.fresh with
      | .bad => .fault 0x0122
      | .token t => if j.mayWrite false (tokenAddr e) 4 then .token t else .fault 0x0201

/-- The write of a token into its 8-byte word (R301 step 2). -/
def State.tokenWrite (s : State) (e : List Byte) (t : Word) : Bool × Nat × List Byte :=
  let a := tokenAddr e
  (false, a / 8 * 8, setField (s.near (a / 8 * 8) 8) (a % 8) 4 t.toNat)

/-- The entry word at 0x10 (R301 step 3). -/
def Roster.advanceWrite (ro : Roster) (i : Nat) (e : List Byte) (t : Word) : Bool × Nat × List Byte :=
  (false, ro.entryAddr i + 0x10, leBytes 4 (u32 e 0x10 + 1) ++ leBytes 4 t.toNat)

/-- end_reason of an entry after its token (R301 step 4). -/
def endReason (e : List Byte) (t : Word) : Nat :=
  if t = w32 e 0x1C then 1 else if u32 e 0x18 ≤ u32 e 0x10 + 2 then 2 else if u8 e 0xA ≠ 0 then 3 else 0

/-- The state word of a retired entry; one that goes to READY takes the next ready_seq (R301 step 4). -/
def State.retireWord (s : State) (ro : Roster) (entry : Nat) (t : Word) : List (Bool × Nat × List Byte) :=
  let w := s.stateWord ro.base entry
  let fell := entryFell w || ro.fellBack
  let reason := endReason (s.entryBytes ro entry) t
  let next := s.ext.near.field (ro.base + 0x10) 4
  if reason ≠ 0 then [(false, ro.wordAddr entry, leBytes 8 (stateWordOf 4 fell reason (entryPin24 w) (readySeq w)))]
  else [(false, ro.wordAddr entry, leBytes 8 (stateWordOf 2 fell 0 (entryPin24 w) next)), (false, ro.base + 0x10, leBytes 4 ((next + 1) % 2 ^ 32))]

/-- The reads of retire for a list entry, round by round: the entry; its group maxima; its candidate logits; the word that its token goes into. -/
def State.retireReads (s : State) (ro : Roster) (j : JobDesc) (logits : Desc) (gmax : Option Desc) (i phase : Nat) : Option (List InRead) :=
  let entry := ro.listed.getD i 0
  if phase = 0 then some [nearRead (ro.entryAddr entry) 64, nearRead (ro.wordAddr entry) 8, nearRead (ro.base + 0x10) 4]
  else if ro.poisoned.any fun x => x.1 = i then none
  else if phase = 1 then some ((gmax.map fun d => d.rowElems i (List.range ro.groups)).getD [])
  else if phase = 2 then some (logits.rowElems i (s.candidates ro logits gmax i))
  else if phase = 3 then
    some (match s.retireEntry ro j logits gmax i with | .token _ => [nearRead (tokenAddr (s.entryBytes ro entry) / 8 * 8) 8] | .fault _ => [])
  else none

/-- Retire of a list entry (R301): its token, then the entry's advance, then its state word, each after the responses of the one before; or the fault that
ends it (R306). -/
def State.retireRun (s : State) (ro : Roster) (j : JobDesc) (logits : Desc) (gmax : Option Desc) (i : Nat) : PieceEnd :=
  let entry := ro.listed.getD i 0
  let e := s.entryBytes ro entry
  let o := PieceOut.of (.retire logits gmax) []
  match s.retireEntry ro j logits gmax i with
  | .token t => .done { o with writes := [outWrite (s.tokenWrite e t)], stages := [[ro.advanceWrite entry e t], s.retireWord ro entry t] }
  | .fault code =>
    let w := s.stateWord ro.base entry
    let own := ro.poisoned.any fun x => x.1 = i
    .done { o with
      writes := (ro.endWrites entry (stateWordOf 3 (entryFell w || ro.fellBack) 0 (entryPin24 w) (readySeq w)) code).map outWrite
      retired := if own then [] else [(entry, code)], refused := if code = 0x0201 && !own then [(s.tokenWrite e 0).2.1] else [] }

/-- The tensors that retire reads. -/
def State.retireDescs (s : State) (j : JobDesc) (ro : Roster) : Except Half (Desc × Option Desc) := do
  let logits ← s.readDesc j ro.logitsDesc
  if ro.gmaxDesc = 0xFFFF then return (logits, none)
  else
    let g ← s.readDesc j ro.gmaxDesc
    return (logits, some g)

/-- The work of retire: an entry is a piece. -/
def Roster.retireWork (ro : Roster) (x : Desc × Option Desc) : Work := workOf (.retire x.1 x.2) ((List.range ro.listed.length).map .one)

end Sys2Proof.Machine
end

