-- ==== Sys2Proof/Machine/Work.lean ====
section
/-! DEFINITION. Commands that work piece by piece: MOVE, GATHER, SCATTER_ADD, SETTLE, UPDATE, the mask commands and the retire of ROSTER_STEP read what
a piece needs at the tile ports, compute it, and write it (R15, R188, R243, R247). A piece is what one of them does between two boundaries at which
pre-emption stops it (R171, R190, R301, R317). Also PASS_VERDICT, SPLIT_PARTIAL_ARRIVE and RESTORE_COMPLETE, after which they go on (R317). -/

namespace Sys2Proof.Machine

/-! ### One piece -/

/-- The reads of the piece at the head of a command's work in one round; none once it has all that it needs. -/
def State.pieceReads (s : State) (j : Job) (w : Work) (x : Piece) : Option (List InRead) :=
  match w.plan, x with
  | .update u _, x => s.updateReads u x w.phase
  | .norm r _, x => s.normReads r x w.phase
  | .retire l g, .one i => j.roster.bind fun ro => s.retireReads ro j.desc l g i w.phase
  | .build .., .one k => j.roster.bind fun ro => s.buildReads ro k w.phase
  | .move src dst turned inPlace, .one k => if w.phase = 0 then some (moveReads src (moveGroup src dst turned inPlace k)) else none
  | .gather src _ idx, .one tt => if w.phase = 0 then some (gatherReads src idx tt) else none
  | .scatter src dst idx, .one r => if w.phase = 0 then some (scatterReads j.desc src dst idx r) else none
  | .settle p _, .one k => if w.phase = 0 then some (p.reads k) else none
  | .score m src, .one k => if w.phase = 0 then some (m.scoreReads src k) else none
  | .prune m mode _ _ _, .one i => if w.phase = 0 then some (m.pruneReads mode i) else none
  | .regrow m mode _ _, .one k => if w.phase = 0 then some (m.regrowReads mode k) else none
  | _, _ => none

/-- What a piece gives once its reads are there. -/
def State.pieceRun (s : State) (j : Job) (f : InFlight) (w : Work) (x : Piece) : PieceEnd :=
  let body := f.ref.body.isSome
  match w.plan, x with
  | .update u st, x => s.updateRun u st x
  | .norm r sum, .one k => s.normRun r sum k
  | .retire l g, .one i =>
    match j.roster with
    | some ro => s.retireRun ro j.desc l g i
    | none => .done (PieceOut.of w.plan [])
  | .build expired _, .one k =>
    match j.roster with
    | some ro => if k = 0 then s.countRun ro else s.buildRun ro expired
    | none => .done (PieceOut.of w.plan [])
  | .move src dst turned inPlace, .one k => s.moveRun body w src dst turned inPlace k
  | .gather src dst idx, .one tt => s.gatherRun body w src dst idx tt
  | .scatter src dst idx, .one r => s.scatterRun j.desc w.plan src dst idx r
  | .settle p m, .one k => s.settleRun body p m k
  | .score m src, .one k => s.scoreRun m src k
  | .prune m mode drop quota t, .one i => s.pruneRun m mode drop quota t i
  | .regrow m mode quota t, .one k => s.regrowRun m mode quota t k
  | _, _ => .done (PieceOut.of w.plan [])

def State.modWork (s : State) (n : Fin 32) (r : CmdRef) (g : Work → Work) : State := s.modFlight n r fun f => { f with work := f.work.map g }

/-- An in-place transpose reads its tiles into its slots (R245). -/
def State.fillTables (s : State) (w : Work) (l : List InRead) : State × List (List Fill) :=
  match w.plan with
  | .move src _ _ true =>
    ((l.zip w.slots).foldl (fun s x =>
      let t : Src := { far := src.far, addr := x.1.addr, size := x.1.size, form := src.form, transposed := true, version := none }
      (s.dropFills x.2.1 x.2.2).modCore x.2.1 fun k =>
        { k with
          sb := k.sb.clear (65536 * x.2.2.val) 65536
          slots := vmod k.slots x.2.2 fun sl => { sl with tiles := [{ copyOf t 0 0 false none with missing := beatsOf t.addr t.size }] } }) s,
      w.slots.map fun y => [{ core := y.1, slot := y.2, offset := 0 }])
  | _ => (s, [])

/-- A round of reads goes out. -/
def State.issueReads (s : State) (n : Fin 32) (j : Job) (f : InFlight) (w : Work) (l : List InRead) : State :=
  match l.find? fun x => !j.desc.mayRead x.far x.addr x.size with
  | some x => s.windowFault n f.ref (j.desc.missRead x.far x.addr x.size)
  | none =>
    let (s1, fills) := s.fillTables w l
    (l.zipIdx.foldl (fun s x => s.extFetch x.1.unit (.cmd n f.ref) x.1.far x.1.addr x.1.size (fills.getD x.2 [])) s1).modWork n f.ref
      fun w => { w with phase := w.phase + 1 }

/-- The first address of a piece that lies outside the windows, where that ends the command: in a roster body a write for some sequences ends those
(R306). -/
def PieceOut.miss (o : PieceOut) (j : JobDesc) : Option Nat :=
  match o.writes.find? fun w => !w.fits j && w.tokens.isEmpty with
  | some w => some (w.missAt j)
  | none => (o.stages.flatten.find? fun w => !j.mayWrite w.1 w.2.1 w.2.2.length).map fun w => j.missWrite w.1 w.2.1 w.2.2.length

/-- The sequences that a piece ends: of the poisoned rows of a body's result (R258), and the entries of a build or of retire (R296, R301), which the lead pair
reports, or the port that a token would have gone to (R403). -/
def State.pieceEnds (s : State) (n : Fin 32) (f : InFlight) (o : PieceOut) : State :=
  let s1 := o.ends.foldl (fun s x => s.endSequence n f x.2 .seqPair s.leadIx x.1) (o.refused.foldl State.refuseAt s)
  o.retired.foldl (fun s x =>
    match o.refused.head? with
    | some a => s.seqFault n f x.2 .tilePort (s.portOf a).val x.1
    | none => s.seqFault n f x.2 .seqPair s.leadIx x.1) s1

/-- A piece is done: the command stands after it, its events and ends are recorded, and its writes go out, with the stages that follow them. No write goes
out of a piece that ends its command. -/
def State.pieceDone (s : State) (n : Fin 32) (j : Job) (f : InFlight) (rest : List Piece) (o : PieceOut) : State :=
  match o.miss j.desc with
  | some a => s.windowFault n f.ref a
  | none =>
    let s1 := s.modFlight n f.ref fun f =>
      { f with work := f.work.map fun w => { w with plan := o.plan, todo := o.more ++ rest, phase := 0 }, stages := o.stages }
    let s2 := o.events.foldl (fun s e => s.eventOnce n f.ref e .seqPair s.leadIx) ({ s1 with fresh := s1.fresh + 1 } : State)
    (State.outWrites n f o.writes (s2.pieceEnds n f o)).1.advanceCmd n f.ref

/-- The last piece is done. None where the end waits for another command: NORMSQ totals add up in plan order (R182). A MOVE between two tiers takes its object along (R237). -/
def State.workDone (s : State) (n : Fin 32) (j : Job) (f : InFlight) (w : Work) : Option State :=
  match w.plan with
  | .move src dst _ _ =>
    some (if f.relocate.isNone then s.completeCmd n f.ref 0x01
    else
      let l := s.rehome j.desc src.index dst
      match l.find? fun w => !j.desc.mayWrite w.1 w.2.1 w.2.2.length with
      | some w => s.windowFault n f.ref (j.desc.missWrite w.1 w.2.1 w.2.2.length)
      | none => (s.modFlight n f.ref fun f => { f with stages := [l] }).completeCmd n f.ref 0x01)
  | .settle p m => some (s.settleDone n f p m)
  | .update u st => some (s.updateDone n f u st)
  | .norm r sum => if (j.flight.takeWhile fun g => !(g.ref == f.ref)).any fun g => g.op == .normsq then none else some (s.normDone n f r sum)
  | .prune m _ _ _ t => some (s.pruneDone n f m t)
  | .regrow m _ _ t => some (s.regrowDone n f m t)
  | .build _ listed => some (s.buildDone n f listed)
  | .gather .. | .scatter .. | .score .. | .retire .. => some (s.completeCmd n f.ref 0x01)

/-! ### The engine -/

/-- A core whose slots an in-place transpose reads into has left service: the piece starts again. -/
def State.slotsLost (s : State) (w : Work) : Bool := w.phase ≠ 0 && w.plan.usesSlots && w.slots.any fun x => !s.cores[x.1].inService

/-- The next step of a command's work, where it can take one: nothing of the last is outstanding, and a new piece may start. -/
def State.workStep (s : State) (n : Fin 32) (j : Job) (f : InFlight) (w : Work) : Option State :=
  if s.cmdOpen n f.ref || !f.stages.isEmpty then none
  else
    match w.todo with
    | [] => s.workDone n j f w
    | x :: rest =>
      if s.slotsLost w then some (s.modWork n f.ref fun w => { w with phase := 0 })
      else if w.phase = 0 && !s.mayWork f then none
      else
        match if w.phase = 0 then s.claimTables n f else some s with
        | none => none
        | some s1 =>
          let v := s1.seen f
          let w1 := (((s1.flight n f.ref).bind (·.work)).getD w)
          match v.pieceReads j w1 x with
          | some l => some (s1.issueReads n j f w1 l)
          | none =>
            match v.pieceRun j f w1 x with
            | .fault code scope => some (s1.failRef n f.ref code scope .seqPair s.leadIx)
            | .done o => some (s1.pieceDone n j f rest o)

/-- A command's work goes on while it can. -/
def State.pumpWork (n : Fin 32) (r : CmdRef) : Nat → State → State
  | 0, s => s
  | fuel + 1, s =>
    match s.jobs[n], s.flight n r with
    | some j, some f =>
      match f.work, f.mv with
      | some w, none =>
        if f.ending.isSome || f.faulted.isSome || j.ended then s
        else
          match s.workStep n j f w with
          | some s1 => State.pumpWork n r fuel s1
          | none => s
      | _, _ => s
    | _, _ => s

/-- Items whose drain reads have come settle; the movers and the other commands of a job that work go on, in the order of its plan. -/
def State.pumpOnce (s : State) (n : Fin 32) : State :=
  let s0 := (s.settleWaiting n).pumpMoves n
  let l := ((s0.jobs[n]).map fun j => j.flight.filterMap fun f => f.work.map fun w => (f.ref, w.todo.length)).getD []
  l.foldl (fun s x => State.pumpWork n x.1 (6 * x.2 + 16) s) s0

/-- All of a job's commands that work go on; again for those that waited for the end of another. -/
def State.pumpWorks (s : State) (n : Fin 32) : State := (s.pumpOnce n).pumpOnce n

/-- A command issues with work to do. -/
def State.startWork (s : State) (x : Next) (f : InFlight) (w : Work) (told : State → State) : State :=
  (told (s.issueNext x { f with work := some w })).pumpWorks x.n

/-- The event of a tile that is not aligned (R241). -/
def State.tellAligned (x : Next) (aligned : Bool) (s : State) : State := if aligned then s else s.eventOnce x.n x.ref 0x0203 .seqPair s.leadIx

/-! ### MOVE, GATHER and SCATTER_ADD -/

/-- MOVE issues. In exclusive-home mode a MOVE between two tiers moves its object (R237). -/
def State.startMove (s : State) (x : Next) (p : MovePlan × Bool) : State :=
  let f := x.flight
  match p.1 with
  | .noop => (State.tellAligned x p.2 (s.issueNext x f)).completeCmd x.n x.ref 0x03
  | .tiles src dst turned inPlace pieces =>
    s.startWork x
      { f with
        writes := dst.nearRange ++ if x.job.desc.exclusive && src.far != dst.far then [(x.job.desc.descTable + 64 * src.index, 64)] else []
        relocate := if x.job.desc.exclusive && src.far != dst.far then some (src.index, dst.base, dst.far) else none }
      (workOf (.move src dst turned inPlace) (pieces.map .one)) (State.tellAligned x p.2)
  | .queue mv =>
    (State.tellAligned x p.2 (s.issueNext x { f with writes := (mv.dst.map Desc.nearRange).getD [], mv := some mv })).pumpWorks x.n

def execMove (s : State) : Host.Outcome State Fault Refusal := .next (s.issueWith [0x20] State.checkMove s.startMove)

/-- The participants of a list command (R247): parts of them, where that is 0 one (DESIGN CHOICE, log 136). -/
def State.participants (s : State) (x : Next) : List (Fin 32) :=
  (allCores.filter fun c => s.cores[c].inService).take (Nat.max 1 (u8 x.raw 0x1C))

/-- GATHER issues. With a queue its participants are its targets (R288). -/
def State.startGather (s : State) (x : Next) (p : GatherPlan × Bool) : State :=
  let g := p.1
  let told (s : State) : State :=
    let s1 := s.tellAligned x p.2
    if g.idx.any (badIndex g.src) then s1.eventOnce x.n x.ref 0x0206 .seqPair s.leadIx else s1
  if g.idx.isEmpty then (s.issueNext x x.flight).completeCmd x.n x.ref 0x03
  else
    match g.dst with
    | none =>
      let cores := allCores.filter fun c => g.mv.todo.any fun y => y.2.contains c
      s.startWork x { x.flight with mv := some g.mv } { workOf (.gather g.src g.src g.idx) [] with cores := cores } told
    | some d =>
      s.startWork x { x.flight with writes := d.nearRange } { workOf (.gather g.src d g.idx) (g.mv.todo.map fun y => .one y.1) with cores := s.participants x }
        told

def execGather (s : State) : Host.Outcome State Fault Refusal := .next (s.issueWith [0x21] State.checkGather s.startGather)

/-- SCATTER_ADD issues: each distinct row is a piece. -/
def State.startScatter (s : State) (x : Next) (p : ScatterPlan × Bool) : State :=
  let g := p.1
  let f := { x.flight with writes := g.dst.nearRange }
  if g.idx.isEmpty then (State.tellAligned x p.2 (s.issueNext x f)).completeCmd x.n x.ref 0x03
  else
    s.startWork x f { workOf (.scatter g.src g.dst g.idx) ((distinctRows g.dst g.idx).map .one) with cores := s.participants x } (State.tellAligned x p.2)

def execScatterAdd (s : State) : Host.Outcome State Fault Refusal := .next (s.issueWith [0x22] State.checkScatter s.startScatter)

/-! ### SETTLE and UPDATE -/

/-- Writes that a command makes as it issues; then its work. -/
def State.writeThenWork (s : State) (x : Next) (l : List (Bool × Nat × List Byte)) (go : State → State) : State :=
  match State.settleWrites x.n x.ref l s with
  | (s1, some a) => s1.windowFault x.n x.ref a
  | (s1, none) => go s1

/-- SETTLE issues: it is a producing command of its destination's record (R289). -/
def State.startSettle (s : State) (x : Next) (p : SettlePlan) : State :=
  let s1 := (s.issueNext x { x.flight with writes := p.writes, work := some p.work }).noteBelow x.n p.scale.record (BitVec.ofNat 32 x.step) p.below
  let s2 := if p.clamped then s1.eventOnce x.n x.ref 0x0321 .seqPair s1.leadIx else s1
  (s2.tellAligned x p.aligned).writeThenWork x (match p.record with | some b => [(false, p.scale.record, b)] | none => []) fun s => s.pumpWorks x.n

def execSettle (s : State) : Host.Outcome State Fault Refusal := .next (s.issueWith [0x30] State.checkSettle s.startSettle)

/-- APPLY and LAZY issue (R183 to R187). -/
def State.startUpdate (s : State) (det : List Detection) (x : Next) (p : UpdFields × UpdIssue) : State :=
  match p.2 with
  | .frozen g => (s.issueNext x { x.flight with writes := [(p.1.sched + 64 * p.1.group, 64)] }).writeThenWork x [(false, p.1.sched + 64 * p.1.group, g)] fun s => s.completeCmd x.n x.ref 0x03
  | .noop code norm =>
    let f := { x.flight with writes := if norm.isSome then [(p.1.norm, 32)] else [] }
    (s.issueNext x f).writeThenWork x (match norm with | some b => [(false, p.1.norm, b)] | none => []) fun s =>
      (s.eventOnce x.n x.ref code .seqPair s.leadIx).completeCmd x.n x.ref 0x03
  | .run u norm record clamped aligned =>
    let s1 := (s.issueNext x { x.flight with writes := u.writeRanges, work := some u.work }).noteBelow x.n u.scale.record u.step u.below
    let s2 := if clamped then s1.eventOnce x.n x.ref 0x0321 .seqPair s1.leadIx else s1
    ((s2.tellAligned x aligned).lanesAgain x.flight u det).writeThenWork x (u.issueWrites norm record) fun s => s.pumpWorks x.n

/-- Issue of an UPDATE of one of the modes given. -/
def State.issueMode {α : Type} (s : State) (ops : List Op) (check : State → Next → Except Half α) (run : Next → α → State) : State :=
  match s.nextOf [0x50] with
  | none => s
  | some x => if ops.contains (opOf x.raw) then s.issueWith [0x50] check run else s

/-- UPDATE in mode APPLY. An UPDATE of mode 3 ends here with its fault (R267). -/
def execApply (det : List Detection) (s : State) : Host.Outcome State Fault Refusal :=
  .next (s.issueMode [.apply, .updateBad] (State.checkUpdate · false) (s.startUpdate det))

/-- UPDATE in mode LAZY (R192 to R194). -/
def execLazy (det : List Detection) (s : State) : Host.Outcome State Fault Refusal :=
  .next (s.issueMode [.lazy] (State.checkUpdate · true) (s.startUpdate det))

/-- NORMSQ issues (R182). -/
def State.startNorm (s : State) (x : Next) (r : NormRun) : State :=
  let f := { x.flight with writes := [(r.f.norm, 32)] }
  if r.divisor = 0 then (((s.issueNext x f).tellAligned x r.g.aligned).eventOnce x.n x.ref 0x0503 .seqPair s.leadIx).completeCmd x.n x.ref 0x03
  else s.startWork x f r.work (State.tellAligned x r.g.aligned)

/-- UPDATE in mode NORMSQ. -/
def execNormsq (s : State) : Host.Outcome State Fault Refusal := .next (s.issueMode [.normsq] State.checkNorm s.startNorm)

/-! ### The mask commands -/

/-- SCORE. -/
def execScore (s : State) : Host.Outcome State Fault Refusal :=
  .next (s.issueWith [0x63] State.checkScore fun x m =>
    s.startWork x x.flight (workOf (.score m.1 m.2) ((List.range m.1.d.tileCount).map .one)) id)

/-- PRUNE. -/
def execPrune (s : State) : Host.Outcome State Fault Refusal :=
  .next (s.issueWith [0x60] State.checkPrune fun x p =>
    let (m, mode, drop, quota) := p
    s.withRecord x m { x.flight with work := some (workOf (.prune m mode drop quota ⟨0, 0⟩) (m.prunePieces mode)) } fun s => s.pumpWorks x.n)

/-- REGROW. -/
def execRegrow (s : State) : Host.Outcome State Fault Refusal :=
  .next (s.issueWith [0x61] State.checkRegrow fun x p =>
    let (m, mode, quota) := p
    let w := workOf (.regrow m mode quota ⟨0, 0, 0, 0, 0⟩) ((List.range m.d.tileCount).map .one)
    s.withRecord x m { x.flight with work := some w } fun s => s.pumpWorks x.n)

/-! ### The fill wait (R296) and retire -/

/-- At the first CCLK of a beat the lead pair reads the state words of a fill wait. -/
def State.rosterBeat (s : State) : State :=
  match s.rosterIn .fillWait with
  | none => s
  | some (n, _, _, f) =>
    if f.work.isSome then s
    else (s.modFlight n f.ref fun f => { f with work := some (workOf (.build false none) [.one 0]) }).pumpWorks n

/-- FILL_WAIT_EXPIRY: the wait's end beat is reached, and the build begins. -/
def execFillWaitExpiry (s : State) : Host.Outcome State Fault Refusal :=
  match s.rosterIn .fillWait with
  | none => .next s
  | some (n, _, ro, f) =>
    if !s.reached ro.endBeat || f.work.any Work.building then .next s
    else
      let w := workOf (.build (s.rosterCount ro < ro.target) none) [.one 1]
      .next ((s.modFlight n f.ref fun f => { f with work := some w }).pumpWorks n)

/-- ROSTER_RETIRE: the body's last command has completed, and retire begins (R301). -/
def execRosterRetire (s : State) : Host.Outcome State Fault Refusal :=
  match s.rosterIn .retire with
  | none => .next s
  | some (n, j, ro, f) =>
    if f.work.isSome || j.flight.any fun f => f.ref.body.isSome then .next s
    else
      match s.retireDescs j.desc ro with
      | .error c => .next (s.failRef n f.ref c (issueScope c) .seqPair s.leadIx)
      | .ok x => .next ((s.modFlight n f.ref fun f => { f with work := some (ro.retireWork x) }).pumpWorks n)

/-! ### Verdicts and partials, after which commands that wait for slots go on -/

/-- PASS_VERDICT: the core controller holds the verdict of every member of the gang for a pass. -/
def execPassVerdict (core : Fin 32) (cmd : CmdRef) (item : Nat) (det : List Detection) (s : State) : Host.Outcome State Fault Refusal :=
  match s.running with
  | none => .next s
  | some (n, j) =>
    match s.liveProduct n cmd, (s.cores[core]).tasks.find? fun t => t.ref == cmd && t.item == item with
    | some (f, p), some t =>
      match t.pass with
      | none => .next s
      | some q =>
        if !s.ready || j.ended || s.resetQuiescing || s.unitHeld .core core.val || t.gang.any (fun x => s.unitHeld .facet (facetIx core x).val) then .next s
        else if det.contains .control then .next ((s.countCtrl core).failRef n cmd 0x0306 .step .core core.val)
        else
          match det.findSome? (Detection.residueAt t) with
          | some row => .next (((s.residueError n core f t row).startPolishes core).pumpWorks n)
          | none => .next (((s.verdict n j f core p t q det).startPolishes core).pumpWorks n)
    | _, _ => .next s

/-- SPLIT_PARTIAL_ARRIVE: the range of a participant reaches its receiver and is combined there: a residue mismatch restarts the unit whose words it concerns, a disagreement of the participant's drain
lane its range (R135, R331, R333). -/
def execSplitPartialArrive (cmd : CmdRef) (unit : Nat) (range : SplitRange) (s : State) : Host.Outcome State Fault Refusal :=
  match s.running with
  | none => .next s
  | some (n, j) =>
    match s.liveProduct n cmd with
    | none => .next s
    | some (f, p) =>
      let participant := range.participant
      let item := unit * p.parts + participant
      let receiver := unit * p.parts + p.receiver participant
      match s.findTask cmd item, s.findTask cmd receiver with
      | some (cq, tq), some (ci, ti) =>
        match s.openRange ci p ti with
        | none => .next s
        | some t =>
          if participant = 0 || participant ≥ p.parts || !s.ready || s.resetQuiescing || j.ended || s.unitHeld .core cq.val || s.unitHeld .core ci.val || !p.rangeFull tq
              || !p.accepts participant t then .next s
          else
            let out := (range.sent.filterMap Detection.laneAt).filter (·.1 < tq.accRows)
            let s1 := (s.drainRows cq f out (List.range tq.accRows)).reportsInOrder s
            let added := (range.det.filterMap (Detection.accAt t)).eraseDups
            let s0 := if out.isEmpty then s1.accErrors ci f t.accFacet (rangeFrom t.accBase t.accRows) added else s1
            let wrongQ := (range.sent.findSome? (Detection.residueAt tq)).or ((s.facets[facetIx cq tq.accFacet]).badRow tq.accBase tq.accRows 64)
            let wrongI := (range.det.findSome? (Detection.residueAt t)).or ((s.facets[facetIx ci t.accFacet]).badRow t.accBase t.accRows 64)
            match wrongQ, wrongI with
            | some row, _ => .next ((s0.residueError n cq f tq row).pumpWorks n)
            | none, some row => .next ((s0.residueError n ci f t row).pumpWorks n)
            | none, none =>
              if !out.isEmpty then
                (if (s0.findTask cmd item).isSome then .next ((s0.restartUnit n cq tq).pumpWorks n) else .next (s0.pumpWorks n))
              else if (s0.findTask cmd item).isSome && (s0.findTask cmd receiver).isSome then
                .next ((s0.combineInto n j f p cq ci tq t (range.det.filterMap Detection.laneAt)).pumpWorks n)
              else .next (s0.pumpWorks n)
      | _, _ => .next s

/-! ### After a restore -/

/-- R190: after a pre-emption an APPLY or LAZY starts again from its first block, and a NORMSQ from its first tile. The statistics gathered before the
pre-emption are dropped with the start (DESIGN CHOICE, log 158): R197 folds those of the blocks done again, but not of the rows of a LAZY whose word is
already clear. -/
def Work.restart (w : Work) : Work :=
  match w.plan with
  | .update u _ => { u.work with cores := w.cores, slots := w.slots }
  | .norm r _ => r.work
  | _ => w

/-- RESTORE_COMPLETE: every chunk has been read; the save's valid word is cleared, tier 0 and the control state are back, and the job's commands go on
(R317, R325). -/
def execRestoreComplete (clean : Bool) (s : State) : Host.Outcome State Fault Refusal :=
  match s.switching .restoring with
  | none => .next s
  | some (n, j, w) =>
    match j.saved with
    | none => .next (s.jobFault 0x060A .block 0 0xFFFFFFFF 0)
    | some sv =>
      if !clean then .next ((s.countParity (j.desc.saveBase + headOff) w.bad true).jobFault 0x060A .block 0 0xFFFFFFFF 0)
      else if (sv.chunk w).isSome || s.reading .restore then .next s
      else
        let s1 := s.extWrite .save j.desc.saveFar false (j.desc.saveBase + headOff) (leBytes 8 0) []
        let s2 := s1.residuesBack.loadControl sv
        let s3 := s2.modJob n fun j => { j with saved := none, flight := j.flight.map fun f => { f with work := f.work.map Work.restart } }
        .next (({ s3 with sched := { s3.sched with switch := none, sliceStart := s3.beatNow } } : State).pumpWorks n)

end Sys2Proof.Machine
end

