-- ==== Sys2Proof/Machine/Beats.lean ====
section
/-! DEFINITION. The beat input (R24, R375 to R377) and what the block does at the first CCLK of a beat. -/

namespace Sys2Proof.Machine

/-- Boot is over: a cut is in force and the block is not held in FAILED. -/
def State.booted (s : State) : Bool := s.mgmt.cut.isApplied && (s.mgmt.boot.cutState == .applied || s.mgmt.boot.cutState == .ready)

/-- Table 15-10, fifth row: at most one event per 1,000 beats. -/
def State.offPeriodCheck (s : State) (count : DWord) (interval : Nat) : State :=
  let told := match s.mgmt.beat.lastOff with | none => false | some b => count < b + 1000
  if !s.booted || s.onPeriod interval || told then s
  else (s.modBeat fun b => { b with offPeriod := true, lastOff := some count }).event 0x0813 .mgmt 0 0

/-- Table 15-10, second row; it makes no exception for the first strobe since a power-on or cold reset, which reset the observed beat to 0. -/
def State.jumpCheck (s : State) (count : DWord) : State :=
  if count = s.mgmt.beat.observed + 1 then s
  else (s.modBeat fun b => { b with jumped := true }).event 0x0810 .mgmt 0 0

/-- What the units do at the first CCLK of a beat: the thermal loop (R346), the scan (R261, R309), the fill wait of a roster step
(R296), a deferred pre-emption (R319), and the reads of the plan and of a restore's header that are due (R266, R325; log 144). -/
def State.beatWork (s : State) : State :=
  let s1 := s.thermalLoop
  if s1.ready then s1.startScan.rosterBeat.afterDeferral.readChunk.readHeader else s1

/-- BEAT_STROBE: `interval` is the number of CCLK since the strobe accepted before. -/
def execBeatStrobe (count : DWord) (interval : Nat) (s : State) : Host.Outcome State Fault Refusal :=
  if !s.functional then .next s
  else if count ≤ s.mgmt.beat.observed then
    .next ((s.modBeat fun b => { b with ignored := true }).event 0x0811 .mgmt 0 0)
  else
    let s1 := if s.mgmt.beat.running then s.offPeriodCheck count interval else s
    let s2 := s1.jumpCheck count
    let measured : Word := if s.mgmt.beat.running then BitVec.ofNat 32 (Nat.min interval 0xFFFFFFFF) else s.mgmt.beat.measured
    let s3 := s2.noteReady.modBeat fun b => { b with observed := count, running := true, stalled := false, measured := measured }
    .next (s3.bootBeat interval).beatWork

/-- BEAT_STALL: no strobe has been accepted for 16 beat periods, which an applied cut gives. -/
def execBeatStall (s : State) : Host.Outcome State Fault Refusal :=
  if !s.functional || !s.mgmt.cut.isApplied || s.mgmt.beat.stalled then .next s
  else .next (((s.modBeat fun b => { b with stalled := true }).event 0x0812 .mgmt 0 0).raiseIrq 19)

end Sys2Proof.Machine
end

