-- ==== Sys2Proof/Machine/Reports.lean ====
section
/-! DEFINITION. The inclusion log's writer (R397, R404 to R406), and what goes on once a fault report that was held has entered the queue. -/

namespace Sys2Proof.Machine

/-- Status byte of a command that a fault ends (Table 11-4). -/
def faultStatus (op : Op) (code : Half) : Byte :=
  if op = .reduce && (code = 0x0402 || code = 0x0406 || code = 0x0821 || code = 0x0822) then 0x05 else 0x04

/-- The same command's sequences still wait with a fault of theirs. -/
def Log.seqHeld (l : Log) (r : Report) : Bool := l.held.any fun x => x.scope == .seq && x.job == r.job && x.planIndex == r.planIndex && x.label == r.label

/-- The command that a report made wait. -/
def Job.heldBy (j : Job) (r : Report) : Option InFlight :=
  j.flight.find? fun f => planWord f.ref == r.planIndex && f.label == r.label &&
    match f.faulted with | some (code, sc) => sc == r.scope && (code == r.code || sc == .seq) | none => false

/-- What a fault ends, once its report has entered the queue (R404, R406): the job; the command; or for a fault of one sequence the command's wait. -/
def State.heldEnds (s : State) (n : Fin 32) (r : Report) : State :=
  if r.scope = .job then s.jobFails r.code r.planIndex r.label
  else
    match (s.jobs[n]).bind fun j => j.heldBy r with
    | none => s
    | some f =>
      let s1 := s.modFlight n f.ref fun f => { f with faulted := none }
      if r.scope = .seq then (if s1.log.seqHeld r then s else s1.advanceCmd n f.ref)
      else (s1.modJob n fun j => j.noteFault r.code r.planIndex r.label).endFaulted n f.ref (faultStatus f.op r.code)

/-- A unit whose report has entered the queue goes on with its work. -/
def State.unitGoesOn (s : State) (r : Report) : State :=
  let s1 := match r.unitKind with
    | .tilePort => if h : r.unitIndex < 32 then s.pumpPort ⟨r.unitIndex, h⟩ else s
    | .channel => if h : r.unitIndex < 4 then s.pump ⟨r.unitIndex, h⟩ else s
    | _ => s
  match s1.sched.run with
  | none => s1
  | some n => s1.pumpWorks n

/-- R404: the fault report that was held first enters the queue; what it concerns ends, and its unit goes on. -/
def State.releaseHeld (s : State) : State :=
  match s.log.held with
  | [] => s
  | r :: rest =>
    let s1 : State := { s with log := { s.log with queue := s.log.queue ++ [r], held := rest } }
    let s2 := match (List.finRange 32).find? fun n => r.job == some n.val with
      | none => s1
      | some n => s1.heldEnds n r
    s2.unitGoesOn r

/-- R405: the interrupt bits of a record. -/
def recordIrqs (r : Report) : Word :=
  (if r.fault then 0x00010000 else 0x00000200) ||| (if r.svc || r.service then 0x00020000 else 0)

/-- INCLUSION_RECORD_WRITE: the next queued report becomes a record; events lost are told when the queue falls to half. -/
def execInclusionRecordWrite (s : State) : Host.Outcome State Fault Refusal :=
  if !s.mcRuns then .next s
  else
    match s.log.queue with
    | [] => .next s
    | r :: rest =>
      let l := s.log
      let recs := l.records ++ [⟨l.count, r⟩]
      let s1 : State := { s with
        log := { l with records := recs.drop (recs.length - 768), count := l.count + 1, queue := rest }
        mgmt := { s.mgmt with irqStatus := s.mgmt.irqStatus ||| recordIrqs r } }
      let s2 := s1.releaseHeld
      if s2.log.dropped > 0 && s2.log.queue.length ≤ 32 then
        let n := s2.log.dropped
        .next (({ s2 with log := { s2.log with dropped := 0 } } : State).event 0x030D .mgmt 0 (BitVec.ofNat 32 n))
      else .next s2

end Sys2Proof.Machine
end

