-- ==== Sys2Proof/Machine/TilePorts.lean ====
section
/-! DEFINITION. The tile ports (R359 to R366): read data, write responses, withdrawn reads and overdue requests. -/

namespace Sys2Proof.Machine

/-- A response that answers nothing outstanding is discarded, with event 0x020E (R366). -/
def State.protocolError (s : State) (port : Fin 32) (tag : Byte) : State :=
  (s.modPort port fun p => { p with protos := satInc p.protos }).event 0x020E .tilePort port.val (BitVec.ofNat 32 tag.toNat)

/-- The command that a request serves, where it serves one. -/
def State.servedBy (s : State) (o : Origin) : Option (Fin 32 × InFlight) :=
  match o with
  | .cmd n r | .drain n r _ => (s.flight n r).map fun f => (n, f)
  | .bucket k =>
    match (s.channels[k]).active with
    | some a => if a.relay then none else (s.flight a.red.job a.red.ref).map fun f => (a.red.job, f)
    | none => none
  | _ => none

/-- An event about a request: it names the command that the request serves. -/
def State.requestEvent (s : State) (code : Half) (port : Fin 32) (o : Origin) (tag : Byte) : State :=
  match s.servedBy o with
  | some (n, f) =>
    s.enter (s.ofJob n (s.report code false .none .tilePort port.val (planWord f.ref) f.label (BitVec.ofNat 32 tag.toNat)))
  | none => s.event code .tilePort port.val (BitVec.ofNat 32 tag.toNat)

/-! ### Read data (R257, R360, R361) -/

/-- The data of a beat reach a copy; a bad beat poisons the rows that it covers. -/
def TileCopy.takeBeat (t : TileCopy) (beat : Nat) (bad : Bool) : TileCopy :=
  let lo := 512 * beat - t.addr
  let hi := Nat.min (512 * (beat + 1) - t.addr) t.size
  { t with missing := t.missing.filter (· ≠ beat), poison := if bad then t.poison ||| badRows t lo hi else t.poison }

/-- The bytes of a beat that belong to a copy, at the stage-buffer base of the copy. -/
def putBeat (t : TileCopy) (base beat : Nat) (data : List Byte) (m : Mem) : Mem :=
  (List.range 512).foldl (fun m i =>
    let a := 512 * beat + i
    if t.addr ≤ a && a < t.addr + t.size then putByte t m base (a - t.addr) (data.getD i 0) else m) m

/-- One beat into the copy that a fetch fills. -/
def State.fillBeat (s : State) (beat : Nat) (data : List Byte) (bad : Bool) (x : Fill) : State :=
  if !s.cores[x.core].inService then s
  else
    s.modCore x.core fun k =>
      match (k.slots[x.slot]).tiles.find? fun t => t.offset == x.offset with
      | none => k
      | some t =>
        { k with
          sb := putBeat t (65536 * x.slot.val + t.offset) beat data k.sb
          slots := vmod k.slots x.slot fun sl =>
            { sl with tiles := sl.tiles.map fun u => if u.offset == x.offset then u.takeBeat beat bad else u } }

/-- What memory holds, as a beat shows it (log 1): its data unless they are unusable, and the poison of the beat. -/
def State.deposit (s : State) (far : Bool) (beat : Nat) (data : List Byte) (bad poison : Bool) : State :=
  let e := s.ext
  let bytes := (List.range 512).map fun i => data.getD i 0
  let e1 := if bad then e else e.setMem far ((e.mem far).writeBytes (512 * beat) bytes)
  { s with ext := e1.setPoison far (poisonWrite (e1.poison far) beat true poison) }

/-- A beat that a command or an engine waits for came back unusable (R257, R361), or good after all. -/
def State.noteBeat (s : State) (q : Req) (beat : Nat) (bad : Bool) : State :=
  match q.origin with
  | .cmd n r =>
    if q.fills.isEmpty then
      s.modFlight n r fun f => { f with bad := (f.bad.filter (· ≠ (q.far, beat))) ++ if bad then [(q.far, beat)] else [] }
    else s
  | .drain n r _ => s.modFlight n r fun f => { f with bad := (f.bad.filter (· ≠ (q.far, beat))) ++ if bad then [(q.far, beat)] else [] }
  | .bucket k =>
    if bad then s.modChan k fun c => { c with active := c.active.map fun a => { a with badBeats := insertNat beat a.badBeats } } else s
  | .control n =>
    if bad then s.modJob n fun j => { j with ask := { j.ask with bad := j.ask.bad ++ [(q.far, beat)] } } else s
  | .plan n => if bad then s.modJob n fun j => { j with reading := j.reading.map fun x => (x.1, x.2 ++ [beat]) } else s
  | .scan => if bad then { s with scan := { s.scan with bad := s.scan.bad ++ [beat] } } else s
  | .client n => if bad then s.modClient n fun c => { c with taken := c.taken.map fun t => { t with bad := true } } else s
  | .restore => if bad then s.modSwitch fun w => { w with bad := true } else s
  | .boot | .block | .save => s

/-- What goes on after the last beat of a read: the command or the engine that waits for it; a slot that it completes is handed on. -/
def State.afterRead (s : State) (q : Req) : State :=
  match q.origin with
  | .cmd n _ => (q.fills.foldl (fun s x => s.slotReady n x.core x.slot) s).pumpWorks n
  | .drain n _ _ => s.pumpWorks n
  | .bucket k => ((s.pump k).portGoesOn (s.chanSend k)).afterDeferral
  | .control n => s.controlStep n
  | .scan => s.scanStep
  | .client n => s.entryRead n
  | .restore => s.chunkRead
  | .plan _ | .boot | .block | .save => s

/-- Step 4 of the boot reads the image in 8 KiB requests (Table 02-8): its first beat tells the length, and each request follows the one
before it. -/
def State.bootBeatRead (s : State) (q : Req) (data : List Byte) : State :=
  if !(s.mgmt.boot.cutState == .booting) || s.mgmt.boot.step.toNat ≠ 4 then s
  else
    let s1 :=
      if q.addr = 0x10000 && q.got = 0 then s.modBoot fun b => { b with unread := Nat.min (u32 data 8) 0x100000 - 8192 } else s
    let n := s1.mgmt.boot.unread
    if q.got + 1 < q.beats || n = 0 then s1
    else (s1.modBoot fun b => { b with unread := n - 8192 }).bootRead (q.addr + 8192) (Nat.min n 8192)

/-- TP_READ_DATA. A boot read is only counted: its bytes come with KEY_HASH_READ_DONE and CUT_IMAGE_READ_DONE
(log 9). Beats are counted: tp_rd_last on a beat that is not the final one changes nothing (log 56). -/
def execTpReadData (port : Fin 32) (tag : Byte) (data : List Byte) (parity : DWord) (poison : Bool) (_last : Bool) (s : State) :
    Host.Outcome State Fault Refusal :=
  if !s.functional then .next s
  else
    match (s.tilePorts[port]).reqs.find? fun q => q.tag == some tag && !q.write with
    | none => .next (s.protocolError port tag)
    | some q =>
      if q.got ≥ q.beats then .next (s.protocolError port tag)
      else
        let parityBad := parity != beatParity data
        let mine (r : Req) : Bool := r.tag == some tag && !r.write
        let done := q.got + 1 = q.beats
        let s1 := s.modPort port fun p =>
          { p with
            rdBeats := p.rdBeats + 1
            rdParity := if parityBad then satInc p.rdParity else p.rdParity
            rdPoison := if poison then satInc p.rdPoison else p.rdPoison
            reqs := if done then p.reqs.filter fun r => !mine r else p.reqs.map fun r => if mine r then { r with got := r.got + 1 } else r }
        if q.origin = .boot then .next (s1.bootBeatRead q data)
        else
          let beat := q.addr / 512 + q.got
          let s2 := s1.deposit q.far beat data (parityBad || poison) poison
          let s3 := q.fills.foldl (fun s x => s.fillBeat beat data (parityBad || poison) x) (s2.noteBeat q beat (parityBad || poison))
          let s4 := s3.pumpPort port
          .next (if done then s4.afterRead q else s4)

/-! ### Write responses (R236, R265, R363) -/

/-- A save is under way, or its writes are still being answered (R317, R321); not once its job ends by a reset or an abort. -/
def State.savingNow (s : State) : Bool :=
  match s.sched.switch with
  | some w => (w.phase = .saving || w.phase = .clearing) && s.mgmt.quiesce.isNone
  | none => false

/-- R363: what a failed write does to the traffic concerned. -/
def State.writeFailed (s : State) (port : Fin 32) (q : Req) (tag : Byte) : State :=
  let detail : Word := BitVec.ofNat 32 tag.toNat
  match q.origin with
  | .save => if s.savingNow then s.jobFault 0x0609 .block 0 0xFFFFFFFF 0 else s.event 0x020B .tilePort port.val detail
  | o =>
    match s.servedBy o with
    | some (n, f) => (s.modFlight n f.ref fun f => { f with stages := [] }).failCmd n f 0x020B .step .tilePort port.val detail 0x04
    | none => s.event 0x020B .tilePort port.val detail

/-- The commands and engines that wait for the writes of an origin. -/
def State.afterWrite (s : State) (o : Origin) : State :=
  match o with
  | .cmd n r => (s.advanceCmd n r).pumpWorks n
  | .save => match s.switching .saving with | some (n, _, _) => s.saveStep n | none => s
  | .bucket k => ((s.pump k).portGoesOn (s.chanSend k)).afterDeferral
  | _ => s

/-- TP_WRITE_RESPONSE. -/
def execTpWriteResponse (port : Fin 32) (tag : Byte) (err : Bool) (beatsAccepted : Bool) (s : State) : Host.Outcome State Fault Refusal :=
  if !s.functional then .next s
  else
    match (s.tilePorts[port]).reqs.find? fun q => q.tag == some tag && q.write with
    | none => .next (s.protocolError port tag)
    | some q =>
      if !beatsAccepted then .next (s.protocolError port tag)
      else
        let s1 := s.modPort port fun p =>
          { p with
            werrs := if err then satInc p.werrs else p.werrs
            reqs := p.reqs.filter fun r => !(r.tag == some tag && r.write) }
        let s2 := if (s.originJob q.origin).isSome then s1.stale q.far q.addr (512 * q.beats) else s1
        let s3 := if err then (s2.tearWrite q).writeFailed port q tag else s2
        let s4 := s3.pumpPort port
        .next (s4.afterWrite q.origin)

/-! ### Requests that wait (R364, R366) -/

/-- Puts an item behind the first element after it that satisfies `p`. -/
def moveBehind {α : Type} (x : α) (p : α → Bool) (l : List α) : List α :=
  match l.span fun y => !p y with
  | (_, []) => x :: l
  | (a, y :: b) => a ++ y :: x :: b

/-- A list with the first element that satisfies `hit` put behind the next one that satisfies `p`. -/
def withdraw {α : Type} (hit p : α → Bool) : List α → List α
  | [] => []
  | x :: r => if hit x then moveBehind x p r else x :: withdraw hit p r

/-- TP_READ_WITHDRAW: the read keeps its tag and is presented again after the write that waits behind it. -/
def execTpReadWithdraw (port : Fin 32) (tag : Byte) (s : State) : Host.Outcome State Fault Refusal :=
  if !s.functional then .next s
  else
    .next (s.modPort port fun p =>
      { p with reqs := withdraw (fun q => q.tag == some tag && !q.write && q.got == 0) (fun q => q.write) p.reqs })

/-- TP_REQUEST_TIMEOUT: once for a request, which stays outstanding; boot reads have their own timeout. -/
def execTpRequestTimeout (port : Fin 32) (tag : Byte) (s : State) : Host.Outcome State Fault Refusal :=
  if !s.functional then .next s
  else
    match (s.tilePorts[port]).reqs.find? fun q => q.tag == some tag with
    | none => .next s
    | some q =>
      if q.timedOut || q.origin = .boot then .next s
      else
        let s1 := s.modPort port fun p =>
          { p with
            timeouts := satInc p.timeouts
            reqs := p.reqs.map fun r => if r.tag == some tag then { r with timedOut := true } else r }
        .next ((s1.requestEvent 0x020C port q.origin tag).raiseIrq 18)

end Sys2Proof.Machine
end

