-- ==== Sys2Proof/Machine/Dispatch.lean ====
section
/-! DEFINITION. The meaning of each command: one arm per constructor of `Instr`. -/

namespace Sys2Proof.Machine

def exec (i : Instr) (s : State) : Host.Outcome State Fault Refusal :=
  match i with
  | .powerOnReset => Sys2Proof.Machine.execPowerOnReset s
  | .coldResetAssert => Sys2Proof.Machine.execColdResetAssert s
  | .coldResetRelease rpMode arrayNominal selfCheck => Sys2Proof.Machine.execColdResetRelease rpMode arrayNominal selfCheck s
  | .blockResetCold selfCheck => Sys2Proof.Machine.execBlockResetCold selfCheck s
  | .blockResetWarm => Sys2Proof.Machine.execBlockResetWarm s
  | .blockResetJob => Sys2Proof.Machine.execBlockResetJob s
  | .quiesceComplete selfCheck => Sys2Proof.Machine.execQuiesceComplete selfCheck s
  | .quiesceTimeout => Sys2Proof.Machine.execQuiesceTimeout s
  | .keyHashReadDone hash clean => Sys2Proof.Machine.execKeyHashReadDone hash clean s
  | .cutImageReadDone image clean => Sys2Proof.Machine.execCutImageReadDone image clean s
  | .bootReadTimeout => Sys2Proof.Machine.execBootReadTimeout s
  | .cutHashDone => Sys2Proof.Machine.execCutHashDone s
  | .cutSignatureDone => Sys2Proof.Machine.execCutSignatureDone s
  | .seqSelfCheckDone failed => Sys2Proof.Machine.execSeqSelfCheckDone failed s
  | .bootBeatTimeout => Sys2Proof.Machine.execBootBeatTimeout s
  | .bootPolishDone failing => Sys2Proof.Machine.execBootPolishDone failing s
  | .cutSeal => Sys2Proof.Machine.execCutSeal s
  | .rwlNarrowWrite addr value => Sys2Proof.Machine.execRwlNarrowWrite addr value s
  | .polishDisable disable steal => Sys2Proof.Machine.execPolishDisable disable steal s
  | .polishNow disable steal => Sys2Proof.Machine.execPolishNow disable steal s
  | .adaptBoundsWrite value => Sys2Proof.Machine.execAdaptBoundsWrite value s
  | .irqStatusClear value => Sys2Proof.Machine.execIrqStatusClear value s
  | .jobAbort value => Sys2Proof.Machine.execJobAbort value s
  | .inclSelWrite value => Sys2Proof.Machine.execInclSelWrite value s
  | .pairLoRead addr => Sys2Proof.Machine.execPairLoRead addr s
  | .registerWrite addr value => Sys2Proof.Machine.execRegisterWrite addr value s
  | .beatStrobe count interval => Sys2Proof.Machine.execBeatStrobe count interval s
  | .beatStall => Sys2Proof.Machine.execBeatStall s
  | .jobAdmission client parityError overrun => Sys2Proof.Machine.execJobAdmission client parityError overrun s
  | .ringWaitExpiry client => Sys2Proof.Machine.execRingWaitExpiry client s
  | .sliceEnd overrun => Sys2Proof.Machine.execSliceEnd overrun s
  | .preemptQuiesced => Sys2Proof.Machine.execPreemptQuiesced s
  | .cheapPointReached => Sys2Proof.Machine.execCheapPointReached s
  | .cheapWaitExpiry => Sys2Proof.Machine.execCheapWaitExpiry s
  | .nopreOverrun => Sys2Proof.Machine.execNopreOverrun s
  | .saveComplete writeError => Sys2Proof.Machine.execSaveComplete writeError s
  | .clearComplete => Sys2Proof.Machine.execClearComplete s
  | .restoreHeaderRead clean => Sys2Proof.Machine.execRestoreHeaderRead clean s
  | .restoreComplete clean => Sys2Proof.Machine.execRestoreComplete clean s
  | .teardownBucketsDone => Sys2Proof.Machine.execTeardownBucketsDone s
  | .planReadDone clean => Sys2Proof.Machine.execPlanReadDone clean s
  | .unknownOpcode => Sys2Proof.Machine.execUnknownOpcode s
  | .endPlan => Sys2Proof.Machine.execEndPlan s
  | .waitBeat => Sys2Proof.Machine.execWaitBeat s
  | .waitBeatTarget cmd => Sys2Proof.Machine.execWaitBeatTarget cmd s
  | .mark => Sys2Proof.Machine.execMark s
  | .product => Sys2Proof.Machine.execProduct s
  | .move => Sys2Proof.Machine.execMove s
  | .gather => Sys2Proof.Machine.execGather s
  | .scatterAdd => Sys2Proof.Machine.execScatterAdd s
  | .settle => Sys2Proof.Machine.execSettle s
  | .reduce => Sys2Proof.Machine.execReduce s
  | .apply det => Sys2Proof.Machine.execApply det s
  | .lazy det => Sys2Proof.Machine.execLazy det s
  | .normsq => Sys2Proof.Machine.execNormsq s
  | .score => Sys2Proof.Machine.execScore s
  | .prune => Sys2Proof.Machine.execPrune s
  | .regrow => Sys2Proof.Machine.execRegrow s
  | .commit => Sys2Proof.Machine.execCommit s
  | .rosterStep => Sys2Proof.Machine.execRosterStep s
  | .fillWaitExpiry => Sys2Proof.Machine.execFillWaitExpiry s
  | .rosterRetire => Sys2Proof.Machine.execRosterRetire s
  | .itemTake core cmd => Sys2Proof.Machine.execItemTake core cmd s
  | .prefetchIssue cmd operand tiles cores => Sys2Proof.Machine.execPrefetchIssue cmd operand tiles cores s
  | .hamperHandleArrive core queue parity => Sys2Proof.Machine.execHamperHandleArrive core queue parity s
  | .passIssue core det => Sys2Proof.Machine.execPassIssue core det s
  | .passVerdict core cmd item det => Sys2Proof.Machine.execPassVerdict core cmd item det s
  | .splitPartialArrive cmd unit range => Sys2Proof.Machine.execSplitPartialArrive cmd unit range s
  | .rtDeadlineMiss core cmd => Sys2Proof.Machine.execRtDeadlineMiss core cmd s
  | .tpReadData port tag data parity poison last => Sys2Proof.Machine.execTpReadData port tag data parity poison last s
  | .tpWriteResponse port tag err beatsAccepted => Sys2Proof.Machine.execTpWriteResponse port tag err beatsAccepted s
  | .tpReadWithdraw port tag => Sys2Proof.Machine.execTpReadWithdraw port tag s
  | .tpRequestTimeout port tag => Sys2Proof.Machine.execTpRequestTimeout port tag s
  | .ringDataFlit port flit adderFaults => Sys2Proof.Machine.execRingDataFlit port flit adderFaults s
  | .ringNak port flit => Sys2Proof.Machine.execRingNak port flit s
  | .ringIdle port flit => Sys2Proof.Machine.execRingIdle port flit s
  | .ringTrain port flit peerPassed => Sys2Proof.Machine.execRingTrain port flit peerPassed s
  | .ringReplayTimeout port => Sys2Proof.Machine.execRingReplayTimeout port s
  | .ringPortDown port => Sys2Proof.Machine.execRingPortDown port s
  | .ringPhyUp port phy => Sys2Proof.Machine.execRingPhyUp port phy s
  | .ringTrainRetry port => Sys2Proof.Machine.execRingTrainRetry port s
  | .downMaskExpiry port => Sys2Proof.Machine.execDownMaskExpiry port s
  | .idleInsert port => Sys2Proof.Machine.execIdleInsert port s
  | .bucketStart chan => Sys2Proof.Machine.execBucketStart chan s
  | .contributionDecision chan => Sys2Proof.Machine.execContributionDecision chan s
  | .reduceDeadline chan => Sys2Proof.Machine.execReduceDeadline chan s
  | .unissuedBucketDeadline chan => Sys2Proof.Machine.execUnissuedBucketDeadline chan s
  | .bucketLimit chan => Sys2Proof.Machine.execBucketLimit chan s
  | .bucketPassed chan => Sys2Proof.Machine.execBucketPassed chan s
  | .polishStealStep facet => Sys2Proof.Machine.execPolishStealStep facet s
  | .polishStepEnd facet signatureOk => Sys2Proof.Machine.execPolishStepEnd facet signatureOk s
  | .polishForcedSlot core => Sys2Proof.Machine.execPolishForcedSlot core s
  | .seqLockstepMismatch pair cleanA cleanB recent executing => Sys2Proof.Machine.execSeqLockstepMismatch pair cleanA cleanB recent executing s
  | .mcLockstepMismatch recent => Sys2Proof.Machine.execMcLockstepMismatch recent s
  | .mcRestartDone => Sys2Proof.Machine.execMcRestartDone s
  | .thermalSensorUpdate readings => Sys2Proof.Machine.execThermalSensorUpdate readings s
  | .droopDetect quadrants pin needed => Sys2Proof.Machine.execDroopDetect quadrants pin needed s
  | .droopRecoveryStep => Sys2Proof.Machine.execDroopRecoveryStep s
  | .throttleInput n => Sys2Proof.Machine.execThrottleInput n s
  | .prefetchLoop starved twoFree waited => Sys2Proof.Machine.execPrefetchLoop starved twoFree waited s
  | .inclusionRecordWrite => Sys2Proof.Machine.execInclusionRecordWrite s
  | .wrapperInstruction inst => Sys2Proof.Machine.execWrapperInstruction inst s
  | .supplyRecovers => Sys2Proof.Machine.execSupplyRecovers s

end Sys2Proof.Machine
end

