-- ==== Sys2Proof/Safety.lean ====
section
/-! DEFINITION. What counts as a safe run: the memories stay in canonical form, what is in force for the block is
changed only by the commands that the spec gives this to, and units that have left service stay out. -/

namespace Sys2Proof.Machine

/-- Every byte memory of the state is in canonical form. -/
def State.memWf (s : State) : Bool :=
  s.ext.near.wf && s.ext.far.wf && (s.cores.toList.all fun c => c.sb.wf) && (s.facets.toList.all fun f => f.acc.wf)

/-- What is in force for the whole block, and what its surroundings and the reader of its log have set: everything that the work
of jobs, rings and ports leaves alone. The service outputs, the power switches, the report queue and how much of its image a boot has yet to
request are no part of it. -/
structure Steady where
  pending : List Instr
  coldN : Bool
  rpMode : BitVec 4
  arrayNominal : BitVec 5
  throttle : BitVec 3
  droop : Bool × BitVec 4
  temps : Vector (BitVec 10) 32
  trip : Bool
  wrapper : WrapperInst
  shifted : List DWord × Bool
  boot : Boot
  cut : Cut
  rwl : Rwl
  ra : RegPort
  irqEnable : Word
  submitBase : DWord
  polish : Polish
  bounds : Bounds
  loops : Loops
  beat : Beat
  records : List LogRecord
  count : Word
  sel : Word × Bool
  data : List Word
  mcRestarts : Word
deriving DecidableEq, Repr

def State.steady (s : State) : Steady where
  pending := s.pending
  coldN := s.mgmt.pins.coldN
  rpMode := s.mgmt.pins.rpMode
  arrayNominal := s.mgmt.pins.arrayNominal
  throttle := s.mgmt.pins.throttle
  droop := (s.mgmt.pins.droopIn, s.mgmt.pins.droopDet)
  temps := s.mgmt.pins.temps
  trip := s.mgmt.pins.trip
  wrapper := s.mgmt.pins.wrapper
  shifted := (s.mgmt.pins.wso, s.mgmt.pins.scanned)
  boot := { s.mgmt.boot with unread := 0 }
  cut := s.mgmt.cut
  rwl := s.mgmt.rwl
  ra := s.mgmt.ra
  irqEnable := s.mgmt.irqEnable
  submitBase := s.mgmt.submitBase
  polish := s.mgmt.polish
  bounds := s.mgmt.bounds
  loops := s.mgmt.loops
  beat := s.mgmt.beat
  records := s.log.records
  count := s.log.count
  sel := (s.log.sel, s.log.selHeld)
  data := s.log.data
  mcRestarts := s.log.mcRestarts

/-- Units that have left service stay out in `t`: fenced facets and lost pairs. -/
def State.staysOut (s t : State) : Prop :=
  (∀ g : Fin 128, s.facetFenced g = true → t.facetFenced g = true)
    ∧ (∀ i : Fin 8, (s.pairs[i]).lost = true → (t.pairs[i]).lost = true)

/-- What decides the sealed grade: a block that is sealed is not held in cold reset, boots only warm (R37, R44), and has no cold boot waiting for its
wrapper (R383). -/
def State.sealSafe (s : State) : Prop :=
  s.mgmt.rwl.isSealed = true →
    s.mgmt.pins.coldN = true ∧ (s.mgmt.boot.cutState = .booting → s.mgmt.boot.warm = true) ∧ s.mgmt.boot.held = none

/-- A command that can bring a power-on or cold reset: by the pins, or by a write of BLOCK_RESET. -/
def mayReset : Instr → Bool
  | .powerOnReset | .coldResetAssert | .blockResetCold _ => true
  | .rwlNarrowWrite a v | .registerWrite a v => a == 0x10 && v.getLsbD 0
  | _ => false

/-- The work of jobs, memory ports and rings: commands that reach no register of the operator. -/
def isWork : Instr → Bool
  | .unknownOpcode | .endPlan | .waitBeat | .waitBeatTarget _ | .mark | .product | .move | .gather | .scatterAdd | .settle | .reduce
  | .apply _ | .lazy _ | .normsq | .score | .prune | .regrow | .commit | .rosterStep | .fillWaitExpiry | .rosterRetire => true
  | .jobAdmission _ _ _ | .ringWaitExpiry _ | .sliceEnd _ | .preemptQuiesced | .cheapPointReached | .cheapWaitExpiry | .nopreOverrun
  | .saveComplete _ | .clearComplete | .restoreHeaderRead _ | .restoreComplete _ | .teardownBucketsDone | .planReadDone _ => true
  | .itemTake _ _ | .prefetchIssue _ _ _ _ | .hamperHandleArrive _ _ _ | .passIssue _ _ | .passVerdict _ _ _ _
  | .splitPartialArrive _ _ _ | .rtDeadlineMiss _ _ => true
  | .tpReadData _ _ _ _ _ _ | .tpWriteResponse _ _ _ _ | .tpReadWithdraw _ _ | .tpRequestTimeout _ _ => true
  | .ringDataFlit _ _ _ | .ringNak _ _ | .ringIdle _ _ | .ringTrain _ _ _ | .ringReplayTimeout _ | .ringPortDown _ | .ringPhyUp _ _
  | .ringTrainRetry _ | .downMaskExpiry _ | .idleInsert _ => true
  | .bucketStart _ | .contributionDecision _ | .reduceDeadline _ | .unissuedBucketDeadline _ | .bucketLimit _ | .bucketPassed _ => true
  | _ => false

/-! ### What statements say of a next state -/

/-- The log after one report with the given code, an event or a fault, stamped with the observed beat, has come to its queue
(R404). -/
def State.tells (s t : State) (code : Half) (fault : Bool) : Prop :=
  ∃ r : Report, r.code = code ∧ r.fault = fault ∧ r.beat = t.beatNow ∧ t.log = s.log.enter r

/-- The boot stands in FAILED with a code: every pair and ring port idle, no lead pair (R43; log 150). -/
def State.bootStands (t : State) (code : Half) : Prop :=
  t.mgmt.boot.cutState = .failed ∧ t.mgmt.boot.fault = code ∧ t.mgmt.lead.valid = false ∧ (∀ i : Fin 8, (t.pairs[i]).state = .out)
    ∧ ∀ p : Fin 4, (t.ringPorts[p]).state = .down ∨ (t.ringPorts[p]).state = .outOfService

/-- The boot has stopped in FAILED with a code, and its record has come to the queue, with no report before it. -/
def State.bootFailed (s t : State) (code : Half) : Prop := t.bootStands code ∧ s.tells t code true

/-- The boot has stopped in FAILED with a code, whose record is the last report of the step. -/
def State.bootStops (s t : State) (code : Half) : Prop :=
  t.bootStands code ∧ t.log.records = s.log.records ∧ t.log.count = s.log.count
    ∧ ∃ (l : Log) (r : Report), r.code = code ∧ r.fault = true ∧ t.log = l.enter r

/-- The state after a power-on or cold reset but for the log, the pins and the cause: every register at its reset value, no job,
nothing in tier 0, no traffic, and every unit as out of reset (Table 02-7, R387). -/
def State.isCold (t : State) : Prop :=
  t.mgmt.pins.coldN = false ∧ t.mgmt.boot = Boot.reset ∧ t.mgmt.quiesce = none ∧ t.mgmt.cut = Cut.reset ∧ t.mgmt.rwl = Rwl.reset
    ∧ t.mgmt.fence = 0 ∧ t.mgmt.irqStatus = 0 ∧ t.mgmt.irqEnable = 0x001F0303 ∧ t.mgmt.submitBase = 0 ∧ t.mgmt.polish = Polish.reset
    ∧ t.scan = Scan.reset ∧ t.mgmt.pins.wso = [] ∧ t.mgmt.pins.scanned = false ∧ t.mgmt.bounds = Bounds.reset ∧ t.mgmt.loops = Loops.reset ∧ t.mgmt.beat = Beat.reset ∧ t.mgmt.lead.valid = false
    ∧ t.mgmt.pins.svcDegraded = false ∧ t.mgmt.pins.svcReplace = false ∧ t.mgmt.pins.trip = false
    ∧ t.jobs = Vector.replicate 32 none ∧ t.sched = State.reset.sched ∧ t.clients = Vector.replicate 256 Client.reset
    ∧ t.cores = Vector.replicate 32 Core.reset ∧ t.facets = Vector.replicate 128 Facet.reset ∧ t.transit = []
    ∧ t.tilePorts = Vector.replicate 32 TilePort.reset ∧ t.ringPorts = Vector.replicate 4 RingPort.reset
    ∧ t.channels = Vector.replicate 4 Channel.reset ∧ t.pairs = Vector.replicate 8 Pair.reset

/-- A boot read of `n` bytes at an address waits on T0 with the boot attributes: tier 1, ro 1, window 0xF, class 0 (R30, R359). -/
def State.bootReadOpen (t : State) (a n : Nat) : Prop :=
  ∃ q ∈ (t.tilePorts[(0 : Fin 32)]).reqs, q.origin = .boot ∧ q.write = false ∧ q.addr = a ∧ q.beats = (n + 511) / 512 ∧ q.far = false
    ∧ q.ro = true ∧ q.window = 0xF ∧ q.cls = 0

/-- The requests at the ports are those of before for which `keep` holds, but for what they would put back of memory (R41, R352). -/
def State.keepsReqs (s t : State) (keep : Req → Bool) : Prop :=
  ∀ p : Fin 32, (t.tilePorts[p]).reqs.map (fun q => { q with old := [] }) = ((s.tilePorts[p]).reqs.filter keep).map fun q => { q with old := [] }

/-- Nothing goes on in the channels: no bucket is staged or active, and no flit waits. -/
def State.ringsIdle (s : State) : Prop := ∀ k : Fin 4, (s.channels[k]).active = none ∧ (s.channels[k]).staging = [] ∧ (s.channels[k]).rx = []

/-- External memory reads alike in both states, at every address of both tiers, and the same beats are poisoned. -/
def State.sameExt (s t : State) : Prop :=
  (∀ far a, (t.ext.mem far).read a = (s.ext.mem far).read a) ∧ t.ext.nearPoison = s.ext.nearPoison ∧ t.ext.farPoison = s.ext.farPoison

/-- External memory reads alike outside the given range of a tier. -/
def State.sameExtBut (s t : State) (far : Bool) (a n : Nat) : Prop :=
  ∀ tier x, (tier ≠ far ∨ x < a ∨ a + n ≤ x) → (t.ext.mem tier).read x = (s.ext.mem tier).read x

/-- A list of writes (tier, address, bytes) put into external memory in order. -/
def ExtMem.putAll (e : ExtMem) (l : List (Bool × Nat × List Byte)) : ExtMem :=
  l.foldl (fun e w => e.setMem w.1 ((e.mem w.1).writeBytes w.2.1 w.2.2)) e

/-- Both tiers hold what the given contents hold. -/
def State.holds (t : State) (e : ExtMem) : Prop := ∀ far, t.ext.mem far = e.mem far

/-- One writable window of the job holds every address from `lo` up to `hi` of a tier. -/
def JobDesc.opens (d : JobDesc) (far : Bool) (lo hi : Nat) : Prop :=
  ∃ w ∈ d.windows, w.far = far ∧ w.rw = true ∧ w.base ≤ lo ∧ hi ≤ w.base + w.size

/-- The work of a command of job `n` leaves the other jobs, the clients, the rings, the handles under way and the choice of the
running job alone. -/
def State.sameBut (s t : State) (n : Fin 32) : Prop :=
  (∀ m : Fin 32, m ≠ n → t.jobs[m] = s.jobs[m]) ∧ t.clients = s.clients ∧ t.transit = s.transit ∧ t.ringPorts = s.ringPorts
    ∧ t.channels = s.channels ∧ t.sched.run = s.sched.run

/-- A command in flight will complete with a status byte once its writes have their responses. -/
def State.endsWith (t : State) (n : Fin 32) (r : CmdRef) (b : Byte) : Prop := ∃ f, t.flight n r = some f ∧ f.ending = some b

/-- A command is in flight and still works. -/
def State.worksOn (t : State) (n : Fin 32) (r : CmdRef) : Prop := ∃ f, t.flight n r = some f ∧ f.ending = none ∧ f.faulted = none

/-- No command of the job is at work piece by piece, and no drain waits for reads. -/
def State.noMover (s : State) (j : Job) : Prop :=
  (∀ f ∈ j.flight, f.mv = none ∧ f.work = none) ∧ ∀ c : Fin 32, ∀ k ∈ (s.cores[c]).tasks, k.asked = []

/-- A command may start its work as it issues: no other one of the job is at work, no pre-emption or quiesce stands, and no request of it is
outstanding. -/
def State.mayStart (s : State) (x : Next) : Prop :=
  s.noMover x.job ∧ s.sched.switch = none ∧ s.mgmt.quiesce = none ∧ s.cmdOpen x.n x.ref = false

/-- Every beat of some ranges is asked for at a port by a read of some origin (R15). -/
def State.asksFor (t : State) (o : Origin) (l : List InRead) : Prop :=
  ∀ y ∈ l, ∀ b ∈ beatsOf y.addr y.size, ∃ (w : Fin 32) (q : Req), q ∈ (t.tilePorts[w]).reqs ∧ q.write = false ∧ q.far = y.far
    ∧ q.origin = o ∧ q.addr ≤ 512 * b ∧ 512 * b < q.addr + 512 * q.beats

/-- A command asks for some ranges. -/
def State.asks (t : State) (n : Fin 32) (r : CmdRef) (l : List InRead) : Prop := t.asksFor (.cmd n r) l

/-- The job may read each of some ranges. -/
def JobDesc.sees (d : JobDesc) (l : List InRead) : Prop := ∀ y ∈ l, d.mayRead y.far y.addr y.size = true

/-- The first reads of a piece, with the number of rounds gone out once they are asked for: a round that reads nothing is passed over. -/
def State.firstReads (s : State) (j : Job) (w : Work) (x : Piece) : Nat × List InRead :=
  match s.pieceReads j { w with phase := 0 } x with
  | some [] => (2, (s.pieceReads j { w with phase := 1 } x).getD [])
  | some l => (1, l)
  | none => (0, [])

/-- The one command in flight of the running job stands at a piece of its work, with all that the piece reads; `rest` come after it. -/
def State.atPiece (s : State) (n : Fin 32) (j : Job) (f : InFlight) (w : Work) (x : Piece) (rest : List Piece) : Prop :=
  s.running = some (n, j) ∧ s.functional = true ∧ s.mgmt.quiesce = none ∧ j.ended = false ∧ j.flight = [f] ∧ f.work = some w ∧ f.mv = none ∧ f.prod = none
    ∧ f.ending = none ∧ f.faulted = none ∧ f.stages = [] ∧ f.bad = [] ∧ w.todo = x :: rest ∧ s.slotsLost w = false
    ∧ (w.phase ≠ 0 ∨ (s.mayWork f = true ∧ w.plan.usesSlots = false))
    ∧ s.cmdOpen n f.ref = false ∧ s.pieceReads j w x = none ∧ s.memWf = true

/-- A piece is done: its writes stand in memory, and the command stands behind it, with the stages of writes that follow (R188, R243, R301). -/
def State.doesPiece (s t : State) (n : Fin 32) (f : InFlight) (w : Work) (rest : List Piece) (o : PieceOut) : Prop :=
  s.sameBut t n ∧ t.holds (s.ext.putAll (o.writes.map fun y => (y.far, y.addr, y.bytes)))
    ∧ ∃ g, t.flight n f.ref = some g ∧ g.ending = none ∧ g.faulted = none ∧ g.stages = o.stages
      ∧ g.work = some { w with plan := o.plan, todo := o.more ++ rest, phase := 0 }

/-- The command at the head of the fetch stage has one of the opcodes, may issue, and can be read: what it needs of control data has been read, as
`State.asked` shows it (R267). Nothing of it is in flight yet. -/
def State.issues (s : State) (codes : List Nat) (x : Next) : Prop :=
  s.nextOf codes = some x ∧ s.askStep x = none ∧ x.mayIssue = true ∧ (s.asked x).bodyRead x = .ok () ∧ (∀ f ∈ x.job.flight, f.ref ≠ x.ref) ∧ s.writesOpen x.n x.ref = false

/-- A command of the plan has passed the fetch stage: the lead pair shows its index, and the fetch stage stands behind it. -/
def State.passed (s t : State) (x : Next) : Prop :=
  (∀ i : Fin 8, (t.pairs[i]).lastIndex = if i.val = s.leadIx then planWord x.ref else (s.pairs[i]).lastIndex)
    ∧ ∀ j, t.jobs[x.n] = some j → x.ref.body = none → j.fetchPos = x.job.fetchPos + 1

/-- A command has issued, and works with the given pieces to do; of the first one so many rounds of reads have gone out. -/
def State.begins (s t : State) (x : Next) (w : Work) (rounds : Nat) : Prop :=
  s.passed t x ∧ s.sameBut t x.n ∧ ∃ f v, t.flight x.n x.ref = some f ∧ f.ending = none ∧ f.faulted = none ∧ f.work = some v
    ∧ v.plan = w.plan ∧ v.todo = w.todo ∧ v.phase = rounds

/-- A fault with scope job has ended the running job: its report, the fault in the job, and the job reset that it starts (R327, R406). -/
def State.failsJob (s t : State) (n : Fin 32) (j : Job) (code : Half) (index : Word) : Prop :=
  s.tells t code true ∧ t.jobs = vset s.jobs n (some (j.noteFault code index 0))
    ∧ t.mgmt.quiesce = some { kind := .jobFault, since := s.beatNow, reported := false }
    ∧ t.mgmt.cause = { s.mgmt.cause with kind := 3, jobByFault := true, count := satIncH s.mgmt.cause.count }
    ∧ t = { s with log := t.log, jobs := t.jobs, ext := t.ext, fresh := t.fresh, tilePorts := t.tilePorts
                   mgmt := { s.mgmt with quiesce := t.mgmt.quiesce, cause := t.mgmt.cause } }

/-- The byte of tier 0 that has a place in the image of a save (Table 13-3): of the stage buffer, or of an accumulator memory. -/
def State.imageByte (s : State) (c : Fin 32) (l : Nat) : Byte :=
  match localFacet l with
  | none => (s.cores[c]).sb.read l
  | some f => ((s.facets[facetIx c f]).acc).read ((l - 0x400000) % 0x40000)

/-- The next chunk of a save goes out, whose switch stands at `w`: the first one from the cursor on that the save keeps, with the bytes of tier 0 that
have their places in it; nothing where none is left (R321, R323, Tables 13-3 and 13-6). -/
def State.savesChunk (s t : State) (j : Job) (sv : Saved) (w : Switch) : Prop :=
  match sv.chunk w with
  | none => t = { s with sched := { s.sched with switch := some w } }
  | some k =>
    let a := j.desc.saveBase + chunkAt k
    t.sched = { s.sched with switch := some { w with cursor := k + 1 } } ∧ s.sameExtBut t j.desc.saveFar a 4096
      ∧ (640 ≤ k → ∀ i < 4096, (t.ext.mem j.desc.saveFar).read (a + i) = s.imageByte (imageCore (chunkAt k)) (imageLocal (chunkAt k) + i))
      ∧ t = { s with ext := t.ext, fresh := t.fresh, sched := t.sched, tilePorts := t.tilePorts }

/-- A save has started: its first chunk goes out, of the units in service (at a cheap point, of what is live), and the job keeps the control state. -/
def State.savesAs (s t : State) (n : Fin 32) (j : Job) (w : Switch) (live : Option (List DWord × List Byte)) : Prop :=
  ∃ sv : Saved, sv.cheap = live.isSome ∧ sv.transit = s.transit ∧ sv.cores = s.coresUp ∧ sv.facets = s.facetsUp
    ∧ (∀ x, live = some x → sv.slotLive = x.1 ∧ sv.accLive = x.2)
    ∧ (∀ c : Fin 32, sv.ctl[c] = { slots := (s.cores[c]).slots, hampers := (s.cores[c]).hampers, tasks := (s.cores[c]).tasks })
    ∧ let u : State := { s with jobs := vset s.jobs n (some { j with saved := some sv }) }
      u.savesChunk t j sv { w with phase := .saving, cheap := live.isSome, saveBeat := s.beatNow, cheapUntil := none, cursor := 0 }

/-- A job but for which one runs and the reads of its plan and of control data. -/
def Job.atRest (j : Job) : Job := { j with state := .admitted, ask := Ask.none, reading := none }

/-- Places but for the one of job `n` stand as they were, apart from which job runs. -/
def State.othersStay (s t : State) (n : Fin 32) : Prop := ∀ m : Fin 32, m ≠ n → (t.jobs[m]).map Job.atRest = (s.jobs[m]).map Job.atRest

/-! ### Issue faults (R268) -/

def errOf {α : Type} : Except Half α → Option Half
  | .error c => some c
  | .ok _ => none

/-- The opcode of a command that issues from the plan, where its checks are one function. -/
def issueCodes : Instr → List Nat
  | .product => [0x10]
  | .move => [0x20]
  | .gather => [0x21]
  | .scatterAdd => [0x22]
  | .settle => [0x30]
  | .reduce => [0x40]
  | .apply _ | .lazy _ | .normsq => [0x50]
  | .rosterStep => [0x70]
  | _ => []

/-- The code of the first check that refuses the command at issue. -/
def State.issueError (s : State) (x : Next) : Instr → Option Half
  | .product => errOf ((s.asked x).checkProduct x)
  | .move => errOf ((s.asked x).checkMove x)
  | .gather => errOf ((s.asked x).checkGather x)
  | .scatterAdd => errOf ((s.asked x).checkScatter x)
  | .settle => errOf ((s.asked x).checkSettle x)
  | .reduce => if s.channelFull x then none else errOf ((s.asked x).checkReduce x)
  | .apply _ => if opOf x.raw = .apply then errOf ((s.asked x).checkUpdate false x) else none
  | .lazy _ => if opOf x.raw = .lazy then errOf ((s.asked x).checkUpdate true x) else none
  | .normsq => if opOf x.raw = .normsq then errOf ((s.asked x).checkNorm x) else none
  | .rosterStep => errOf ((s.asked x).checkRoster x)
  | _ => none

/-- A command of the plan has left flight, and counts as completed. -/
def State.doneWith (t : State) (x : Next) : Prop :=
  t.flight x.n x.ref = none ∧ ∃ j, t.jobs[x.n] = some j ∧ (x.ref.body = none → j.done = x.job.done + 1)

/-- A command of the plan has failed at issue: one report, the job's first fault, the status byte 4, and nothing else done. -/
def State.failsAtIssue (s t : State) (x : Next) (code : Half) : Prop :=
  s.tells t code true ∧ s.passed t x ∧ s.sameBut t x.n ∧ t.doneWith x
    ∧ (∃ j, t.jobs[x.n] = some j ∧ j.firstFault = if x.job.firstFault = 0 then code else x.job.firstFault)
    ∧ (if x.job.desc.statusBase = 0 then s.sameExt t else (t.ext.near.read (x.job.desc.statusBase + x.ref.plan) = 0x04
      ∧ s.sameExtBut t false (x.job.desc.statusBase + x.ref.plan) 1))

/-! ### Places of memory -/

/-- No beat of external memory is poisoned. -/
def State.noPoison (s : State) : Prop := s.ext.nearPoison = [] ∧ s.ext.farPoison = []

/-- Every write of a list may be made by the job. -/
def JobDesc.takes (d : JobDesc) (l : List (Bool × Nat × List Byte)) : Prop := ∀ w ∈ l, d.mayWrite w.1 w.2.1 w.2.2.length = true

/-- The record of a mask command and the planes that it names, with room for every tile. -/
def MaskRun.places (m : MaskRun) : List (Nat × Nat) :=
  (m.d.maskRec, 512) :: (List.range 14).map fun i => (u64 m.rec_ (0x20 + 8 * i), 0x100000 * m.d.tileCount)

/-- The places of a mask command lie apart, and the job may read and write them. -/
def MaskRun.clear (m : MaskRun) (d : JobDesc) : Prop := disjoint m.places = true ∧ ∀ x ∈ m.places, d.opens false x.1 (x.1 + x.2)

/-- The sum of the source rows that a SCATTER_ADD adds to row `x` at column `c`, in the order of the list (R248). -/
def State.scatterSum (s : State) (src : Desc) (idx : List Int) (x c : Nat) : Word :=
  match (idx.zipIdx.filter fun v => v.1 = (x : Int)).map fun v => ((s.sourceRow src v.2).getD c (0, false)).1 with
  | [] => 0
  | v :: r => r.foldl fpAdd v

/-! ### Rings and cores -/

/-- The payloads that a ring port has sent without an ack, and those it has still to send, in order. -/
def RingPort.queued (r : RingPort) : List (List Byte) := r.unacked.map (fun u => u.2.bytes) ++ r.toSend.map (·.bytes)

/-- What a port makes of a flit that it discards: it is counted, and a NAK goes out unless one has since the last good flit, with 1,024 FCLK not yet
passed (R371). -/
def RingPort.discards (r : RingPort) (late : Bool) : RingPort :=
  let q : RingPort := { r with crcs := satInc r.crcs }
  if r.nakSent && !late then q else ({ q with nakSent := true, naks := satInc q.naks } : RingPort).send (r.flit 2 false 0 [])

/-- A ring port has nothing to send, and the channel that sends on it has taken every flit that it received and has nothing else to do. -/
def State.calm (s : State) (p : Fin 4) : Prop :=
  (s.ringPorts[p]).toSend = [] ∧ ∀ k, s.chanOn p true = some k → (s.channels[k]).rx = [] ∧ s.ownWork k = none

/-- No polish is asked of a facet of the core. -/
def State.noPolish (s : State) (c : Fin 32) : Prop :=
  ∀ x : Fin 4, (s.facets[facetIx c x]).immediate = false ∧ (s.facets[facetIx c x]).forced = false

/-- A running job with a PRODUCT that works on. -/
def State.productWorks (s : State) (n : Fin 32) (j : Job) (r : CmdRef) (f : InFlight) (p : Product) : Prop :=
  s.running = some (n, j) ∧ s.liveProduct n r = some (f, p) ∧ j.ended = false

end Sys2Proof.Machine
end

