-- ==== Sys2Proof/Certificates/Slice0/Obligations.lean ====
section
/-! DEFINITION. The statements about the model, by chapter of the spec. `exec c s = .next t` says that the command completes in `t`;
a statement that equates `t` with `s` but for named fields is the command's frame. -/

open Sys2Proof Sys2Proof.Machine

/-! ### The whole block -/

/-- A step executes the command in front on the state with the queue's rest; with none waiting the block idles (log 6). -/
def Obligations.StepRunsFrontCommand : Prop :=
  (∀ (c : Instr) (rest : List Instr) (s : State), s.pending = c :: rest → step s = exec c { s with pending := rest })
    ∧ ∀ s : State, s.pending = [] → step s = .next s

/-- Every command completes in every state, and touches no command that waits behind it. The model's choice (DEDUCED, log 61): what the spec calls a
fault is a report, after which the block goes on, and an event that cannot come about in a state leaves it as it is (log 60). -/
def Obligations.EveryCommandCompletes : Prop := ∀ (c : Instr) (s : State), ∃ t, exec c s = .next t ∧ t.pending = s.pending

/-- Every step keeps every byte memory in canonical form: both tiers, the stage buffers and the accumulator memories. -/
def Obligations.MemoriesStayCanonical : Prop := ∀ s t : State, s.memWf = true → step s = .next t → t.memWf = true

/-- R37, R44, R383: a sealed block is out of cold reset, boots only warm and has no cold boot waiting, after every step. -/
def Obligations.SealSafeIsKept : Prop := ∀ s t : State, s.sealSafe → step s = .next t → t.sealSafe

/-- The two invariants hold right after reset. -/
def Obligations.ResetMeetsInvariants : Prop := State.reset.memWf = true ∧ State.reset.sealSafe

/-- R37, R38, R387: once the block is sealed, no command but those that can bring a power-on or cold reset widens the cut or changes
the seal; a warm boot may lower the polish period. -/
def Obligations.SealKeepsNarrowing : Prop :=
  ∀ (c : Instr) (s t : State), s.sealSafe → s.mgmt.rwl.isSealed = true → mayReset c = false → exec c s = .next t →
    t.mgmt.rwl.isSealed = true ∧ t.mgmt.rwl.structDigest = s.mgmt.rwl.structDigest ∧ t.mgmt.rwl.facetDisable = s.mgmt.rwl.facetDisable
      ∧ t.mgmt.rwl.shapeMenu = s.mgmt.rwl.shapeMenu ∧ t.mgmt.rwl.polishPeriod ≤ s.mgmt.rwl.polishPeriod

/-- R339, R343, R342: a fenced facet and a lost pair stay out of service but for power-on and cold resets. -/
def Obligations.LostUnitsStayOut : Prop :=
  ∀ (c : Instr) (s t : State), mayReset c = false → exec c s = .next t → s.staysOut t

/-- Commands of jobs, memory ports and rings reach no register of the operator, no cut, no boot state, no record of the log. -/
def Obligations.WorkLeavesRegistersAlone : Prop :=
  ∀ (c : Instr) (s t : State), isWork c = true → exec c s = .next t → t.steady = s.steady

/-- Reset values of chapter 16, as the reads of the registers give them right after power-on: RW and RWL fields (R387), the counters,
and the fields that a cut fills in later (0). -/
def Obligations.ResetValues : Prop :=
  (∀ x ∈ ([(0x00, 0x00090102), (0x04, 0x10), (0x08, 0), (0x0C, 0), (0x14, 0), (0x1C, 0), (0x80, 0), (0x84, 2), (0x8C, 0x005A4101), (0x98, 0),
        (0x100, 0), (0x104, 0x001F0303), (0x110, 0), (0x114, 0), (0x124, 0), (0x128, 0), (0x220000, 0), (0x22000C, 0xFFFFFFFF), (0x200000, 0),
        (0x20001C, 0xFFFFFFFF), (0x210000, 0), (0x230004, 0), (0x230010, 0)] : List (Nat × Nat)),
      State.reset.readReg x.1 = some x.2)
    ∧ State.reset.log.records = [] ∧ State.reset.jobs = Vector.replicate 32 none ∧ State.reset.mgmt.pins.coldN = false

/-! ### Resets and boot (chapters 02 and 14, R352, R392) -/

/-- R40, R45, R352, Table 02-7: POWER_ON_RESET and COLD_RESET_ASSERT put every register back and drop all work; a cold reset keeps the
log's records and count. Memory changes only where a write was in flight. The model's choice (DEDUCED, log 23): a cold reset drops the reports that are
held back, and the pin acts in every state, within a boot too. -/
def Obligations.ColdResetsClear : Prop :=
  (∀ s : State, ∃ t, exec .powerOnReset s = .next t ∧ t.isCold ∧ t.log = Log.reset ∧ t.mgmt.pins.swState = 0
      ∧ t.mgmt.cause = { kind := 0, coldByRegister := false, jobByFault := false, count := 0 })
    ∧ (∀ s : State, s.mgmt.pins.coldN = true → ∃ t, exec .coldResetAssert s = .next t ∧ t.isCold
      ∧ t.log.records = s.log.records ∧ t.log.count = s.log.count ∧ t.log.held = [] ∧ t.log.sel = 0 ∧ t.log.selHeld = false
      ∧ t.mgmt.pins.swState = s.mgmt.pins.swState
      ∧ t.mgmt.cause = { kind := 1, coldByRegister := false, jobByFault := false, count := 0 })
    ∧ ∀ s t : State, s.memWf = true → (exec .powerOnReset s = .next t ∨ exec .coldResetAssert s = .next t) →
      ∀ far a, (∀ p : Fin 32, ∀ q ∈ (s.tilePorts[p]).reqs, q.far = far → ∀ c ∈ q.old, c.1 ≠ a) →
        (t.ext.mem far).read a = (s.ext.mem far).read a

/-- R352, Table 02-8 steps 1 to 3: the release of `pwr_cold_n` samples the static inputs and starts a cold boot, whose first read is
the key hash; a failed self-check leaves the block dead. R383: with another wrapper instruction loaded, or after a scan, the boot waits (log 151). A cold
reset by register does as the pin does, without releasing it. -/
def Obligations.ColdBootStarts : Prop :=
  (∀ (rp : BitVec 4) (an : BitVec 5) (s : State), s.mgmt.pins.coldN = false → s.mgmt.pins.wrapper = .bypass → s.mgmt.pins.scanned = false →
      ∃ t, exec (.coldResetRelease rp an true) s = .next t ∧ t.mgmt.boot = { Boot.reset with step := 3, stopped := s.mgmt.boot.stopped }
        ∧ t.mgmt.pins = { s.mgmt.pins with coldN := true, rpMode := rp, arrayNominal := an, swState := 0xFFFFFFFF } ∧ t.bootReadOpen 0 48
        ∧ (∀ c : Fin 32, (t.cores[c]).sb = [] ∧ (t.cores[c]).tasks = []) ∧ (∀ g : Fin 128, (t.facets[g]).acc = [])
        ∧ t = { s with mgmt := { s.mgmt with pins := t.mgmt.pins, boot := t.mgmt.boot }, cores := t.cores, facets := t.facets, transit := []
                       tilePorts := t.tilePorts })
    ∧ (∀ (rp : BitVec 4) (an : BitVec 5) (s : State), s.mgmt.pins.coldN = false → s.mgmt.pins.wrapper = .bypass → s.mgmt.pins.scanned = false →
      ∃ t, exec (.coldResetRelease rp an false) s = .next t ∧ t.mgmt.boot.dead = true ∧ t.mgmt.pins.coldN = true ∧ t.log = s.log
        ∧ t.raServed = false)
    ∧ (∀ (rp : BitVec 4) (an : BitVec 5) (ok : Bool) (s : State), s.mgmt.pins.coldN = false →
      s.mgmt.pins.wrapper ≠ .bypass ∨ s.mgmt.pins.scanned = true →
      exec (.coldResetRelease rp an ok) s = .next { s with mgmt := { s.mgmt with
        pins := { s.mgmt.pins with coldN := true, rpMode := rp, arrayNominal := an }, boot := { s.mgmt.boot with held := some ok } } })
    ∧ ∀ s : State, s.raServed = true → (s.booting = false ∨ s.mgmt.boot.warm = true) →
      ∃ t, exec (.blockResetCold true) s = .next t ∧ t.mgmt.boot = { Boot.reset with step := 3 } ∧ t.bootReadOpen 0 48
        ∧ t.mgmt.cause = { kind := 1, coldByRegister := true, jobByFault := false, count := 0 } ∧ t.mgmt.pins.coldN = true
        ∧ t.mgmt.rwl = Rwl.reset ∧ t.mgmt.cut = Cut.reset ∧ t.mgmt.ra = RegPort.reset ∧ t.mgmt.fence = 0
        ∧ t.jobs = Vector.replicate 32 none ∧ t.log.records = s.log.records ∧ t.log.count = s.log.count

/-- R41, R392: a warm or job reset by register completes its access without error, quiesces the block and sets RESET_CAUSE; requests
that were not issued are dropped: at a job reset those of the running job, at a warm reset all but the block's own records and words. -/
def Obligations.ResetsQuiesce : Prop :=
  (∀ s : State, s.raServed = true → s.booting = false → s.mgmt.boot.cutState ≠ .failed → s.warmQuiescing = false →
      ∃ t, exec .blockResetWarm s = .next t ∧ t.mgmt.quiesce = some { kind := .warm, since := s.beatNow, reported := false }
        ∧ t.mgmt.cause = { s.mgmt.cause with kind := 2, count := satIncH s.mgmt.cause.count } ∧ t.mgmt.ra.error = false
        ∧ s.keepsReqs t (fun q => q.tag.isSome || q.origin == .block)
        ∧ t = { s with ext := t.ext, tilePorts := t.tilePorts
                       mgmt := { s.mgmt with quiesce := t.mgmt.quiesce, cause := t.mgmt.cause, ra := t.mgmt.ra } })
    ∧ (∀ (n : Fin 32) (s : State), s.raServed = true → s.booting = false → s.mgmt.boot.cutState ≠ .failed → s.resetQuiescing = false →
      s.sched.run = some n →
      ∃ t, exec .blockResetJob s = .next t ∧ t.mgmt.quiesce = some { kind := .job, since := s.beatNow, reported := false }
        ∧ t.mgmt.cause = { s.mgmt.cause with kind := 3, jobByFault := false, count := satIncH s.mgmt.cause.count } ∧ t.mgmt.ra.error = false
        ∧ s.keepsReqs t (fun q => q.tag.isSome || !s.serves n q)
        ∧ t = { s with ext := t.ext, tilePorts := t.tilePorts
                       mgmt := { s.mgmt with quiesce := t.mgmt.quiesce, cause := t.mgmt.cause, ra := t.mgmt.ra } })
    ∧ ∀ s : State, s.raServed = true → s.mgmt.boot.cutState = .failed → ∀ c k, (c = .blockResetWarm ∧ k = 2) ∨ (c = .blockResetJob ∧ k = 3) →
      ∃ t r, exec c s = .next t ∧ r.code = 0x070F ∧ r.fault = false ∧ r.detail = k ∧ t.log = s.log.enter r ∧ t.mgmt.quiesce = s.mgmt.quiesce

/-- R41, R328, Table 02-7: once every response has come, a warm reset ends every job, keeps the cut, the RWL registers and the
log's records, and boots warm; a job reset writes the record of the running job with end_word 3 and releases its place. After
64 beats of waiting, event 0x070E and `irq_fault`. The record is read back where no channel goes on writing. -/
def Obligations.QuiescingEnds : Prop :=
  (∀ (s : State) (q : Quiesce), s.functional = true → s.mgmt.quiesce = some q → q.kind = .warm → s.quiesceOpen .warm = false →
      ∃ t, exec (.quiesceComplete true) s = .next t ∧ t.mgmt.boot = { Boot.reset with warm := true, step := 3, stopped := s.mgmt.boot.stopped }
        ∧ t.mgmt.quiesce = none ∧ t.bootReadOpen 0 48 ∧ t.jobs = Vector.replicate 32 none ∧ t.sched.run = none
        ∧ t.mgmt.cut = s.mgmt.cut ∧ t.mgmt.rwl = s.mgmt.rwl ∧ s.staysOut t ∧ t.log.records = s.log.records
        ∧ (∀ i : Fin 8, (t.pairs[i]).state = .out))
    ∧ (∀ (s : State) (q : Quiesce) (n : Fin 32) (j : Job), s.functional = true → s.memWf = true → s.mgmt.quiesce = some q → q.kind = .job →
      s.running = some (n, j) → j.ended = false → s.quiesceOpen .job = false →
      ∃ t, exec (.quiesceComplete true) s = .next t ∧ t.jobs[n] = none ∧ (t.mgmt.irqStatus.getLsbD 0) = true
        ∧ (s.ringsIdle → t.mgmt.quiesce = none ∧ t.ext.near.field (j.desc.completion + 0x38) 8 = 3
          ∧ t.ext.near.field j.desc.completion 8 = j.desc.cookie.toNat))
    ∧ ∀ (s : State) (q : Quiesce), s.functional = true → s.mgmt.quiesce = some q → q.reported = false → s.reached (q.since + 64) = true →
      s.quiesceOpen q.kind = true →
      ∃ t, exec .quiesceTimeout s = .next t ∧ s.tells t 0x070E false
        ∧ t = { s with log := t.log, mgmt := { s.mgmt with quiesce := some { q with reported := true }
                                                           irqStatus := s.mgmt.irqStatus ||| (1 <<< 20) } }

/-- Table 02-8 steps 3 to 5: the key hash, the image with a good header, and the matching key move the boot on. R42: the image is read in
requests of 8 KiB, each after the last beat of the one before. -/
def Obligations.BootReadsArrive : Prop :=
  (∀ (h : List Byte) (s : State), s.bootingAt 3 = true → h.all (· == 0x00) = false → h.all (· == 0xFF) = false →
      ∃ t, exec (.keyHashReadDone h true) s = .next t ∧ t.bootReadOpen 0x10000 8192
        ∧ t = { s with tilePorts := t.tilePorts, mgmt := { s.mgmt with boot := { s.mgmt.boot with keyHash := h, step := 4, unread := 0 } } })
    ∧ (∀ (w : Fin 32) (tag : Byte) (data : List Byte) (parity : DWord) (poison last : Bool) (q : Req) (s : State), s.bootingAt 4 = true →
      (s.tilePorts[w]).reqs.find? (fun x => x.tag == some tag && !x.write) = some q → q.origin = .boot → 1 ≤ q.got → q.got + 1 = q.beats →
      0 < s.mgmt.boot.unread →
      ∃ t, exec (.tpReadData w tag data parity poison last) s = .next t ∧ t.bootReadOpen (q.addr + 8192) (Nat.min s.mgmt.boot.unread 8192)
        ∧ t.mgmt.boot = { s.mgmt.boot with unread := s.mgmt.boot.unread - 8192 })
    ∧ (∀ (im : List Byte) (s : State), s.bootingAt 4 = true → headerOk im = true →
      ∃ t, exec (.cutImageReadDone im true) s = .next t
        ∧ t = { s with tilePorts := t.tilePorts, cores := t.cores, mgmt := { s.mgmt with boot := { s.mgmt.boot with image := im, step := 5 } } }
        ∧ ∀ c : Fin 32, t.cores[c] = { s.cores[c] with sb := (t.cores[c]).sb })
    ∧ ∀ s : State, s.bootingAt 5 = true → sha384 (imageKey s.mgmt.boot.image) = s.mgmt.boot.keyHash →
      exec .cutHashDone s =
        .next { s with mgmt := { s.mgmt with boot := { s.mgmt.boot with step := 6, digest := sha384 (imageBody s.mgmt.boot.image) } } }

/-- R43 and the codes of Table 02-8: a boot that fails stops in FAILED with the code of its step (0x0704 for a poisoned key-hash read:
DEDUCED, log 10; a warm boot compares the digest of its STRUCTURE whether it is sealed or not: log 113; that in FAILED every pair is out of service and the
lead is not valid: log 150). 0x0709: no pair passes its self-check; 0x070A: one of the two intervals of the three strobes is off the period; 0x070C: no
facet is left after the boot polish. -/
def Obligations.BootFailsByCode : Prop :=
  (∀ s : State, (s.bootingAt 3 = true ∨ s.bootingAt 4 = true) → ∃ t, exec .bootReadTimeout s = .next t ∧ s.bootFailed t 0x0701)
    ∧ (∀ s : State, s.bootingAt 9 = true → ∃ t, exec .bootBeatTimeout s = .next t ∧ s.bootFailed t 0x070B)
    ∧ (∀ (h : List Byte) (s : State), s.bootingAt 3 = true → (h.all (· == 0x00) = true ∨ h.all (· == 0xFF) = true) →
      ∃ t, exec (.keyHashReadDone h true) s = .next t ∧ s.bootFailed t 0x0702)
    ∧ (∀ (h : List Byte) (s : State), s.bootingAt 3 = true → ∃ t, exec (.keyHashReadDone h false) s = .next t ∧ s.bootFailed t 0x0704)
    ∧ (∀ (im : List Byte) (s : State), s.bootingAt 4 = true →
      (∃ t, exec (.cutImageReadDone im false) s = .next t ∧ s.bootFailed t 0x0704)
        ∧ (headerOk im = false → ∃ t, exec (.cutImageReadDone im true) s = .next t ∧ s.bootFailed t 0x0703))
    ∧ (∀ s : State, s.bootingAt 5 = true → sha384 (imageKey s.mgmt.boot.image) ≠ s.mgmt.boot.keyHash →
      ∃ t, exec .cutHashDone s = .next t ∧ s.bootFailed t 0x0705)
    ∧ (∀ s : State, s.bootingAt 6 = true → ecdsaVerify (imageKey s.mgmt.boot.image) (imageSig s.mgmt.boot.image) s.mgmt.boot.digest = false →
      ∃ t, exec .cutSignatureDone s = .next t ∧ s.bootFailed t 0x0706)
    ∧ (∀ s : State, s.bootingAt 6 = true → ecdsaVerify (imageKey s.mgmt.boot.image) (imageSig s.mgmt.boot.image) s.mgmt.boot.digest = true →
      (sectionsOk s.mgmt.boot.image = false → ∃ t, exec .cutSignatureDone s = .next t ∧ s.bootFailed t 0x0707)
        ∧ (sectionsOk s.mgmt.boot.image = true → s.mgmt.boot.warm = true →
          sha384 (sectionBytes s.mgmt.boot.image 1) ≠ s.mgmt.rwl.structDigest →
          ∃ t, exec .cutSignatureDone s = .next t ∧ s.bootFailed t 0x0708))
    ∧ (∀ (failed : BitVec 8) (s : State), s.bootingAt 8 = true → (∀ i : Fin 8, (s.pairs[i]).lost = true ∨ failed.getLsbD i.val = true) →
      ∃ t, exec (.seqSelfCheckDone failed) s = .next t ∧ s.bootStops t 0x0709)
    ∧ (∀ (n : DWord) (i : Nat) (s : State), s.bootingAt 9 = true → s.mgmt.beat.observed < n → 2 ≤ s.mgmt.boot.beats →
      (s.mgmt.boot.beatBad = true ∨ s.onPeriod i = false) → ∃ t, exec (.beatStrobe n i) s = .next t ∧ s.bootStops t 0x070A)
    ∧ (∀ (n : DWord) (i : Nat) (s : State), s.bootingAt 9 = true → s.mgmt.beat.observed < n → s.mgmt.boot.beats = 1 → s.onPeriod i = false →
      ∃ t, exec (.beatStrobe n i) s = .next t ∧ t.mgmt.boot = { s.mgmt.boot with beats := 2, beatBad := true })
    ∧ ∀ (l : List (Fin 128 × BitVec 6)) (s : State), s.bootingAt 10 = true → (∀ g : Fin 128, s.facetUp g = true → ∃ x ∈ l, x.1 = g) →
      ∃ t, exec (.bootPolishDone l) s = .next t ∧ s.bootStops t 0x070C

/-- Table 02-8 step 8, R387, R390: a cut with a good signature and good sections applies. After a cold boot it gives the RWL registers and
STRUCT_DIGEST (log 113);
after a warm boot they are kept, and POLISH_PERIOD takes the lower value. -/
def Obligations.CutApplies : Prop :=
  ∀ (s : State) (im : List Byte), s.bootingAt 6 = true → s.mgmt.boot.image = im →
    ecdsaVerify (imageKey im) (imageSig im) s.mgmt.boot.digest = true → sectionsOk im = true →
    (s.mgmt.boot.warm = true → sha384 (sectionBytes im 1) = s.mgmt.rwl.structDigest) →
    ∃ t, exec .cutSignatureDone s = .next t ∧ t.mgmt.boot = { s.mgmt.boot with step := 8 }
      ∧ t.mgmt.cut = { isApplied := true, structureBytes := sectionBytes im 1, jobDefaults := sectionBytes im 2
                       operating := sectionBytes im 3, mcFirmware := sectionBytes im 4, seqFirmware := sectionBytes im 5
                       serial := w64 im 0x10, sealOnBoot := u8 im 0x1A % 2 == 1 }
      ∧ (s.mgmt.boot.warm = false →
        t.mgmt.rwl = { s.mgmt.rwl with facetDisable := BitVec.ofNat 128 (field (sectionBytes im 1) 0 16)
                                       shapeMenu := BitVec.ofNat 7 (u8 (sectionBytes im 1) 0x11)
                                       polishPeriod := BitVec.ofNat 13 (u16 (sectionBytes im 3) 0), structDigest := sha384 (sectionBytes im 1) })
      ∧ (s.mgmt.boot.warm = true →
        t.mgmt.rwl = { s.mgmt.rwl with polishPeriod := t.mgmt.rwl.polishPeriod } ∧ t.mgmt.rwl.polishPeriod ≤ s.mgmt.rwl.polishPeriod
          ∧ t.mgmt.rwl.polishPeriod ≤ BitVec.ofNat 13 (u16 (sectionBytes im 3) 0))
      ∧ (∀ i : Fin 8, t.pairs[i] = { s.pairs[i] with state := if (s.pairs[i]).lost then .out else .selfCheck })
      ∧ t = { s with pairs := t.pairs, mgmt := { s.mgmt with boot := t.mgmt.boot, cut := t.mgmt.cut, rwl := t.mgmt.rwl
                                                             pins := { s.mgmt.pins with swState := t.mgmt.pins.swState } } }

/-- R19, R44, Table 02-8 steps 8 to 11: after the self-checks every pair that passed runs, its cores serve, and the lowest one leads;
after the boot polish, which every facet in service that passes has completed (R350), the block seals and is READY, or stops in APPLIED; a warm
boot keeps the seal as it stands (log 114). The model's choice (DEDUCED, log 17): boot_step is 11 in APPLIED too, and no ready interrupt rises there. -/
def Obligations.BootFinishes : Prop :=
  (∀ (failed : BitVec 8) (s : State), s.bootingAt 8 = true → (∃ i : Fin 8, (s.pairs[i]).lost = false ∧ failed.getLsbD i.val = false) →
      ∃ t, exec (.seqSelfCheckDone failed) s = .next t ∧ t.mgmt.boot.step = 9 ∧ t.mgmt.boot.cutState = .booting
        ∧ (∀ i : Fin 8, (t.pairs[i]).lost = ((s.pairs[i]).lost || failed.getLsbD i.val)
          ∧ (t.pairs[i]).state = if (s.pairs[i]).lost || failed.getLsbD i.val then .out else .running)
        ∧ (∀ c : Fin 32, (t.cores[c]).inService = !((s.pairs[stripeOf c]).lost || failed.getLsbD (stripeOf c).val))
        ∧ t.mgmt.lead.valid = true
        ∧ ∀ i : Fin 8, t.leadIx = i.val → (t.pairs[i]).state = .running ∧ ∀ j : Fin 8, (t.pairs[j]).state = .running → i.val ≤ j.val)
    ∧ (∀ (l : List (Fin 128 × BitVec 6)) (s : State), s.bootingAt 10 = true →
      ((s.mgmt.boot.warm = false ∧ s.mgmt.cut.sealOnBoot = true) ∨ (s.mgmt.boot.warm = true ∧ s.mgmt.rwl.isSealed = true)) →
      (∃ g : Fin 128, s.facetUp g = true ∧ ∀ x ∈ l, x.1 ≠ g) → s.running = none →
      ∃ t, exec (.bootPolishDone l) s = .next t ∧ t.mgmt.boot.cutState = .ready ∧ t.mgmt.boot.step = 11
        ∧ t.mgmt.rwl = (if s.mgmt.boot.warm then s.mgmt.rwl
          else { s.mgmt.rwl with isSealed := true, structDigest := sha384 s.mgmt.cut.structureBytes })
        ∧ t.mgmt.irqStatus.getLsbD 8 = true ∧ (∀ x ∈ l, s.facetUp x.1 = true → t.facetFenced x.1 = true)
        ∧ (∀ g, (∀ x ∈ l, x.1 ≠ g) → t.facetFenced g = s.facetFenced g)
        ∧ ∀ g : Fin 128, s.facetUp g = true → (∀ x ∈ l, x.1 ≠ g) → (t.facets[g]).counters.polish = satInc (s.facets[g]).counters.polish
          ∧ t.mgmt.polish.owed.getLsbD g.val = false)
    ∧ ∀ s : State, s.bootingAt 10 = true → (s.mgmt.boot.warm = true ∨ s.mgmt.cut.sealOnBoot = false) →
      (s.mgmt.boot.warm = false ∨ s.mgmt.rwl.isSealed = false) → s.anyFacet = true →
      ∃ t, exec (.bootPolishDone []) s = .next t ∧ t.mgmt.boot.cutState = .applied ∧ t.mgmt.boot.step = 11 ∧ t.mgmt.rwl = s.mgmt.rwl
        ∧ t = { s with facets := t.facets, mgmt := { s.mgmt with boot := t.mgmt.boot, polish := t.mgmt.polish } }

/-! ### Registers (chapter 16) -/

/-- R2: VERSION reads 0x00090102 whatever the grade and the cut, and a read of it changes nothing but the port's outcome. -/
def Obligations.VersionReads : Prop :=
  ∀ s : State, s.raServed = true →
    ∃ t, exec (.pairLoRead 0x000000) s = .next t ∧ t.mgmt.ra.rdata = 0x00090102 ∧ t.mgmt.ra.error = false
      ∧ t = { s with mgmt := { s.mgmt with ra := t.mgmt.ra } }

/-- R385: a read returns the register and changes nothing but the port; a read of _LO and the next read of _HI, whenever it comes,
give one 64-bit value as it stood at the first. -/
def Obligations.PairsReadAsOne : Prop :=
  (∀ (a : BitVec 24) (v : Nat) (s : State), s.raServed = true → s.readPort a.toNat = some v →
      ∃ t, exec (.pairLoRead a) s = .next t ∧ t.mgmt.ra.rdata = BitVec.ofNat 32 v ∧ t.mgmt.ra.error = false
        ∧ t.mgmt.ra.staged = s.mgmt.ra.staged ∧ t = { s with mgmt := { s.mgmt with ra := t.mgmt.ra } })
    ∧ ∀ (a : BitVec 24) (s t u : State), s.raServed = true → isLoReg a.toNat = true → exec (.pairLoRead a) s = .next t →
      u.raServed = true → u.mgmt.ra.latched = t.mgmt.ra.latched →
      ∃ w hi, exec (.pairLoRead (a + 4)) u = .next w ∧ s.readReg (a.toNat + 4) = some hi ∧ w.mgmt.ra.rdata = BitVec.ofNat 32 hi
        ∧ w.mgmt.ra.error = false

/-- R379, R384: an access to an address that names no register, a write of a register that takes none, and every access while the
port is not served end with `ra_error` and read data 0, and change nothing else. While the port is held, no access ends and its outputs stay 0
(R353, R383). -/
def Obligations.StrayAccessesFail : Prop :=
  (∀ (a : BitVec 24) (v : Word) (c : Instr) (s : State), s.functional = false → (c = .pairLoRead a ∨ c = .registerWrite a v ∨ c = .rwlNarrowWrite a v) →
      exec c s = .next { s with mgmt := { s.mgmt with ra := { s.mgmt.ra with rdata := 0, error := false } } })
    ∧ (∀ (a : BitVec 24) (s : State), s.functional = true →
      (s.raServed = false ∨ a.toNat % 4 ≠ 0 ∨ (0x8800 ≤ a.toNat ∧ a.toNat < 0x100000) ∨ 0x240000 ≤ a.toNat ∨ (0x218000 ≤ a.toNat ∧ a.toNat < 0x220000)
        ∨ (0x100000 ≤ a.toNat ∧ a.toNat < 0x200000 ∧ 0x5000 ≤ a.toNat % 0x8000)
        ∨ (0x200000 ≤ a.toNat ∧ a.toNat < 0x210000 ∧ 0x34 ≤ a.toNat % 0x4000)) →
      exec (.pairLoRead a) s = .next { s with mgmt := { s.mgmt with ra := { s.mgmt.ra with rdata := 0, error := true } } })
    ∧ ∀ (a : BitVec 24) (v : Word) (c : Instr) (s : State), s.functional = true → (c = .registerWrite a v ∨ c = .rwlNarrowWrite a v) →
      (s.raServed = false ∨ a.toNat ∉ [0x08, 0x10, 0x1C, 0x60, 0x64, 0x68, 0x6C, 0x80, 0x84, 0x88, 0x8C, 0x98, 0x100, 0x104, 0x110, 0x114, 0x12C, 0x230010]) →
      exec c s = .next { s with mgmt := { s.mgmt with ra := { s.mgmt.ra with rdata := 0, error := true } } }

/-- R388: an RWL write outside APPLIED, after sealing, or that would widen the cut ends with `ra_error` and changes nothing. -/
def Obligations.RwlRefuses : Prop :=
  ∀ (a : BitVec 24) (v : Word) (c : Instr) (s : State), s.functional = true → (c = .registerWrite a v ∨ c = .rwlNarrowWrite a v) →
    a.toNat ∈ [0x08, 0x1C, 0x60, 0x64, 0x68, 0x6C, 0x80] →
    (s.mgmt.boot.cutState ≠ .applied ∨ s.mgmt.rwl.isSealed = true
      ∨ (a = 0x08 ∧ v.getLsbD 0 = true ∧ s.gradeNow ∉ [128, 120, 112, 96])
      ∨ (a = 0x1C ∧ (v.getLsbD 0 = false ∨ ∃ b < 7, v.getLsbD b = true ∧ s.mgmt.rwl.shapeMenu.getLsbD b = false))
      ∨ (0x60 ≤ a.toNat ∧ a.toNat < 0x70 ∧ ∃ b < 32, v.getLsbD b = false ∧ s.mgmt.rwl.facetDisable.getLsbD (8 * (a.toNat - 0x60) + b) = true)
      ∨ (a = 0x80 ∧ s.mgmt.rwl.polishPeriod.toNat < v.toNat % 8192)) →
    ∃ t, exec c s = .next t ∧ t.mgmt.ra.error = true ∧ t.mgmt.ra.rdata = 0
      ∧ t = { s with mgmt := { s.mgmt with ra := { s.mgmt.ra with rdata := 0, error := true } } }

/-- R38: in APPLIED and not sealed, further bits of FACET_DISABLE take facets out with their accumulator memories, SHAPE_MENU loses
bits, POLISH_PERIOD falls. R356: a core with no facet left loses its switch. -/
def Obligations.RwlNarrows : Prop :=
  ∀ s : State, s.raServed = true → s.mgmt.boot.cutState = .applied → s.mgmt.rwl.isSealed = false →
    (∀ (i : Fin 4) (v : Word), (∀ b < 32, s.mgmt.rwl.facetDisable.getLsbD (32 * i.val + b) = true → v.getLsbD b = true) →
      ∃ t, exec (.rwlNarrowWrite (BitVec.ofNat 24 (0x60 + 4 * i.val)) v) s = .next t ∧ t.mgmt.ra.error = false
        ∧ t.mgmt.rwl = { s.mgmt.rwl with facetDisable := s.mgmt.rwl.facetDisable ||| (v.zeroExtend 128 <<< (32 * i.val)) }
        ∧ (∀ g : Fin 128, t.facets[g] = if t.facetDisabled g
            then { (s.facets[g]).blank with polishing := false, immediate := false, forced := false } else s.facets[g])
        ∧ (∀ c : Fin 32, t.mgmt.pins.swState.getLsbD c.val
            = (s.mgmt.pins.swState.getLsbD c.val && !(s.mgmt.cut.isApplied && (t.coreFacets c).isEmpty)))
        ∧ t = { s with facets := t.facets, mgmt := { s.mgmt with rwl := t.mgmt.rwl, ra := t.mgmt.ra
                                                                 pins := { s.mgmt.pins with swState := t.mgmt.pins.swState } } })
    ∧ (∀ v : Word, v.getLsbD 0 = true → (∀ b < 7, v.getLsbD b = true → s.mgmt.rwl.shapeMenu.getLsbD b = true) →
      ∃ t, exec (.rwlNarrowWrite 0x1C v) s = .next t ∧ t.mgmt.ra.error = false
        ∧ t = { s with mgmt := { s.mgmt with ra := t.mgmt.ra, rwl := { s.mgmt.rwl with shapeMenu := v.truncate 7 } } })
    ∧ (∀ v : Word, 1000 ≤ v.toNat % 8192 → v.toNat % 8192 ≤ s.mgmt.rwl.polishPeriod.toNat →
      ∃ t, exec (.rwlNarrowWrite 0x80 v) s = .next t ∧ t.mgmt.ra.error = false
        ∧ t = { s with mgmt := { s.mgmt with ra := t.mgmt.ra, rwl := { s.mgmt.rwl with polishPeriod := v.truncate 13 } } })

/-- R37, R38, Table 02-8 step 11: CUT_SEAL in APPLIED with a grade of Table 02-6 seals, records the digest of STRUCTURE and makes the
block READY at this beat, with `irq_event`. -/
def Obligations.CutSeals : Prop :=
  ∀ s : State, s.raServed = true → s.mgmt.boot.cutState = .applied → s.mgmt.rwl.isSealed = false → s.gradeNow ∈ [128, 120, 112, 96] →
    ∃ t, exec .cutSeal s = .next t ∧ t.mgmt.ra.error = false
      ∧ t.mgmt.rwl = { s.mgmt.rwl with isSealed := true, structDigest := sha384 s.mgmt.cut.structureBytes }
      ∧ t.mgmt.boot = { s.mgmt.boot with cutState := .ready, step := 11 }
      ∧ (∀ g : Fin 128, t.facets[g] = { s.facets[g] with polished := false })
      ∧ t = { s with facets := t.facets
                     mgmt := { s.mgmt with boot := t.mgmt.boot, rwl := t.mgmt.rwl, ra := t.mgmt.ra
                                           beat := { s.mgmt.beat with readyBeat := s.beatNow }
                                           irqStatus := s.mgmt.irqStatus ||| (1 <<< 8) } }

/-- R350, Table 14-5: POLISH_CTL.disable stops every polish and voids the guarantee; each change of the bit is event 0x030A; `now`
asks every facet in service for an immediate polish, and starts it where the arrays have clock and no pass is in flight (R338); not in FAILED (R43). -/
def Obligations.PolishControlActs : Prop :=
  ∀ (st : Bool) (s : State), s.raServed = true →
    (∀ c : Instr, c = .polishDisable true st ∨ c = .polishNow true st →
      ∃ t, exec c s = .next t ∧ t.mgmt.ra.error = false ∧ t.guaranteeVoid = true
        ∧ t.mgmt.polish = { s.mgmt.polish with disable := true, steal := st }
        ∧ (∀ g : Fin 128, t.facets[g] = { s.facets[g] with polishing := false, immediate := false, forced := false })
        ∧ (if s.mgmt.polish.disable then t.log = s.log else s.tells t 0x030A false)
        ∧ t = { s with facets := t.facets, log := t.log, mgmt := { s.mgmt with ra := t.mgmt.ra, polish := t.mgmt.polish } })
    ∧ (∃ t, exec (.polishDisable false st) s = .next t ∧ t.mgmt.ra.error = false
        ∧ t.mgmt.polish = { s.mgmt.polish with disable := false, steal := st
                                               owed := if s.mgmt.polish.disable then s.facetsUp else s.mgmt.polish.owed }
        ∧ (if s.mgmt.polish.disable then s.tells t 0x030A false else t.log = s.log)
        ∧ t = { s with log := t.log, mgmt := { s.mgmt with ra := t.mgmt.ra, polish := t.mgmt.polish } })
    ∧ ∃ t, exec (.polishNow false st) s = .next t ∧ t.mgmt.ra.error = false ∧ t.mgmt.polish.disable = false
        ∧ (s.mgmt.boot.cutState = .failed → t.facets = s.facets)
        ∧ (s.mgmt.boot.cutState ≠ .failed → ∀ g : Fin 128, (t.facets[g]).immediate = (s.facetUp g || (s.facets[g]).immediate)
          ∧ (t.facets[g]).polishing = ((s.facets[g]).polishing || (s.facetUp g && decide (0 < s.dutyInForce) && !s.facetBusy g))
          ∧ t.facets[g] = { s.facets[g] with immediate := (t.facets[g]).immediate, polishing := (t.facets[g]).polishing })
        ∧ t = { s with facets := t.facets, log := t.log, mgmt := { s.mgmt with ra := t.mgmt.ra, polish := t.mgmt.polish } }

/-- R345, R393, R391, R385: ADAPT_BOUNDS takes values within its ranges and refuses others; IRQ_STATUS bits clear where 1 is written;
IRQ_ENABLE holds the bits it has; SUBMIT_TABLE_BASE commits with _LO, with the staged _HI or zero. Writes of 1 clear trip_seen and droop_exceeded of
RELIABILITY_STATUS, after which they void the guarantee no longer (R350), and jumped, ignored and off_period of BEAT_STATUS (Table 16-7). -/
def Obligations.OperatorWrites : Prop :=
  ∀ s : State, s.raServed = true →
    (∀ v : Word, s.mgmt.cut.isApplied = true → 1 ≤ bits v.toNat 4 0 → bits v.toNat 4 0 ≤ s.depthMax → 1 ≤ bits v.toNat 11 8 →
      bits v.toNat 11 8 ≤ 8 → 1 ≤ bits v.toNat 15 12 → 60 ≤ bits v.toNat 23 16 → bits v.toNat 23 16 + 5 ≤ u8 s.mgmt.cut.operating 0x28 →
      ∃ t, exec (.adaptBoundsWrite v) s = .next t ∧ t.mgmt.ra.error = false
        ∧ t.mgmt.bounds = { prefetchMin := v.truncate 5, dutyFloor := (v >>> 8).truncate 4
                            stretchMax := (v >>> 12).truncate 4, thermalTarget := (v >>> 16).truncate 8 }
        ∧ t = { s with mgmt := { s.mgmt with
            ra := t.mgmt.ra, bounds := t.mgmt.bounds
            loops := { s.mgmt.loops with narrowed := s.mgmt.loops.narrowed || decide (bits v.toNat 15 12 < s.mgmt.bounds.stretchMax.toNat) } } })
    ∧ (∀ v : Word, (s.mgmt.cut.isApplied = false ∨ bits v.toNat 4 0 = 0 ∨ s.depthMax < bits v.toNat 4 0 ∨ bits v.toNat 11 8 = 0
        ∨ 8 < bits v.toNat 11 8 ∨ bits v.toNat 15 12 = 0 ∨ bits v.toNat 23 16 < 60) →
      exec (.adaptBoundsWrite v) s = .next { s with mgmt := { s.mgmt with ra := { s.mgmt.ra with rdata := 0, error := true } } })
    ∧ (∀ v : Word, exec (.irqStatusClear v) s =
        .next { s with mgmt := { s.mgmt with irqStatus := s.mgmt.irqStatus &&& ~~~v, ra := { s.mgmt.ra with rdata := 0, error := false } } })
    ∧ (∀ v : Word, exec (.registerWrite 0x104 v) s =
        .next { s with mgmt := { s.mgmt with irqEnable := v &&& 0x001F0303, ra := { s.mgmt.ra with rdata := 0, error := false } } })
    ∧ (∀ v : Word, ∃ t, exec (.registerWrite 0x88 v) s = .next t
        ∧ t.guaranteeVoid = (s.mgmt.polish.disable || s.polishPending || (s.mgmt.polish.tripSeen && !v.getLsbD 3)
          || (s.mgmt.polish.droopExceeded && !v.getLsbD 4))
        ∧ t = { s with mgmt := { s.mgmt with
            ra := { s.mgmt.ra with rdata := 0, error := false }
            polish := { s.mgmt.polish with tripSeen := s.mgmt.polish.tripSeen && !v.getLsbD 3
                                           droopExceeded := s.mgmt.polish.droopExceeded && !v.getLsbD 4 } } })
    ∧ (∀ v : Word, exec (.registerWrite 0x98 v) s = .next { s with mgmt := { s.mgmt with
        ra := { s.mgmt.ra with rdata := 0, error := false }
        beat := { s.mgmt.beat with jumped := s.mgmt.beat.jumped && !v.getLsbD 2, ignored := s.mgmt.beat.ignored && !v.getLsbD 3
                                   offPeriod := s.mgmt.beat.offPeriod && !v.getLsbD 4 } } })
    ∧ ∀ hi lo : Word, ∃ t u w, exec (.registerWrite 0x114 hi) s = .next t ∧ t.mgmt.submitBase = s.mgmt.submitBase ∧ t.mgmt.ra.error = false
        ∧ exec (.registerWrite 0x110 lo) t = .next u ∧ u.mgmt.submitBase = hi ++ (lo &&& 0xFFFFF000)
        ∧ u = { s with mgmt := { s.mgmt with submitBase := u.mgmt.submitBase, ra := u.mgmt.ra } }
        ∧ exec (.registerWrite 0x110 lo) u = .next w ∧ w.mgmt.submitBase = (0 : Word) ++ (lo &&& 0xFFFFF000)

/-- R394, R327: an abort of a job that is not admitted ends with `ra_error`. A waiting job ends at once with end_word 5, event 0x060D
and its cookie in its record, also while a reset quiesces the block (log 149); the running job quiesces: its passes stop at a token boundary, what a save or
a restore of it has not issued is dropped, and `switching` stands until the next job starts (Table 16-12). -/
def Obligations.JobsAbort : Prop :=
  ∀ (v : Word) (n : Fin 32) (s : State), s.raServed = true → v.toNat % 32 = n.val →
    (s.isAdmitted n = false →
      exec (.jobAbort v) s = .next { s with mgmt := { s.mgmt with ra := { s.mgmt.ra with rdata := 0, error := true } } })
    ∧ (∀ j : Job, s.jobs[n] = some j → j.ended = false → s.sched.run ≠ some n → s.bucketsOf n = false → s.ext.near.wf = true →
      ∃ t, exec (.jobAbort v) s = .next t ∧ t.mgmt.ra.error = false ∧ t.jobs = vset s.jobs n none ∧ s.tells t 0x060D false
        ∧ t.ext.near.field (j.desc.completion + 0x38) 8 = 5 ∧ t.ext.near.field j.desc.completion 8 = j.desc.cookie.toNat
        ∧ s.sameExtBut t false j.desc.completion 64 ∧ t.mgmt.irqStatus = s.mgmt.irqStatus ||| 1
        ∧ (t.clients[j.client]).completed = (s.clients[j.client]).completed + 1 ∧ t.cores = s.cores ∧ t.facets = s.facets
        ∧ t.sched = s.sched ∧ t.channels = s.channels)
    ∧ ∀ j : Job, s.jobs[n] = some j → j.ended = false → s.sched.run = some n → s.mgmt.quiesce = none →
      ∃ t, exec (.jobAbort v) s = .next t ∧ t.mgmt.ra.error = false ∧ s.tells t 0x060D false
        ∧ t.mgmt.quiesce = some { kind := .abort, since := s.beatNow, reported := false }
        ∧ s.keepsReqs t (fun q => q.tag.isSome || !(q.origin == .save || q.origin == .restore))
        ∧ (∀ c : Fin 32, t.cores[c] = { s.cores[c] with tasks := (t.cores[c]).tasks })
        ∧ t = { s with log := t.log, ext := t.ext, tilePorts := t.tilePorts, cores := t.cores, fresh := t.fresh
                       mgmt := { s.mgmt with ra := t.mgmt.ra, quiesce := t.mgmt.quiesce } }

/-- R398: INCL_SEL copies the selected record while INCL_COUNT − INCL_SEL, modulo 2^32, lies from 1 to the number of records held, else
zeros, and INCL_DATA keeps its copy while further records are written, each of which comes into INCL_COUNT as a whole. -/
def Obligations.InclSelCopies : Prop :=
  (∀ (v : Word) (s : State), s.raServed = true →
      ∃ t, exec (.inclSelWrite v) s = .next t ∧ t.mgmt.ra.error = false ∧ t.log.sel = v
        ∧ (∀ r, 1 ≤ (s.log.count - v).toNat → s.log.records.reverse[(s.log.count - v).toNat - 1]? = some r →
          t.log.selHeld = true ∧ t.log.data = (List.range 8).map fun i => w32 r.bytes (4 * i))
        ∧ ((s.log.count - v).toNat = 0 ∨ s.log.records.length < (s.log.count - v).toNat →
          t.log.selHeld = false ∧ t.log.data = List.replicate 8 0)
        ∧ t = { s with log := { s.log with sel := v, selHeld := t.log.selHeld, data := t.log.data }
                       mgmt := { s.mgmt with ra := { s.mgmt.ra with rdata := 0, error := false } } })
    ∧ ∀ s : State, ∃ t, exec .inclusionRecordWrite s = .next t ∧ t.log.data = s.log.data ∧ t.log.selHeld = s.log.selHeld
      ∧ t.log.sel = s.log.sel
      ∧ (t.log.count = s.log.count ∧ t.log.records = s.log.records
        ∨ t.log.count = s.log.count + 1 ∧ ∃ r, t.log.records.getLast? = some r ∧ r.seq = s.log.count)

/-- R397, R404, R405: the next queued report becomes a record with the next sequence number, the 768 most recent stay in order, and
its interrupt bits rise; with no fault report held back and no event dropped, nothing else changes. -/
def Obligations.RecordsAreWritten : Prop :=
  ∀ (r : Report) (rest : List Report) (s : State), s.mcRuns = true → s.log.queue = r :: rest →
    ∃ t, exec .inclusionRecordWrite s = .next t ∧ t.log.count = s.log.count + 1
      ∧ t.log.records = (s.log.records ++ [({ seq := s.log.count, report := r } : LogRecord)]).drop (s.log.records.length + 1 - 768)
      ∧ t.mgmt.irqStatus.getLsbD 16 = (s.mgmt.irqStatus.getLsbD 16 || r.fault) ∧ t.mgmt.irqStatus.getLsbD 9 = (s.mgmt.irqStatus.getLsbD 9 || !r.fault)
      ∧ t.mgmt.irqStatus.getLsbD 17 = (s.mgmt.irqStatus.getLsbD 17 || r.svc || r.service)
      ∧ (s.log.held = [] → s.log.dropped = 0 →
        t = { s with log := { s.log with records := t.log.records, count := t.log.count, queue := rest }
                     mgmt := { s.mgmt with irqStatus := t.mgmt.irqStatus } })
      ∧ (s.log.held = [] → 0 < s.log.dropped → rest.length ≤ 32 → t.log.dropped = 0 ∧ ∃ d : Report, d.code = 0x030D ∧ d.fault = false
        ∧ d.detail = BitVec.ofNat 32 s.log.dropped ∧ t.log.queue = rest ++ [d])

/-! ### Beats (R375 to R377, Table 15-10) -/

/-- Table 15-10: a strobe with a higher count is the observed beat, with a jump where it skips one; a count that is not higher is
ignored and changes nothing; a stall is told once. BEAT_NOW counts from 0, and the table makes no exception for the first strobe. -/
def Obligations.BeatsAreObserved : Prop :=
  (∀ (n : DWord) (i : Nat) (s : State), s.functional = true → s.mgmt.beat.observed < n →
      ∃ t, exec (.beatStrobe n i) s = .next t ∧ t.mgmt.beat.observed = n ∧ t.mgmt.beat.running = true ∧ t.mgmt.beat.stalled = false
        ∧ t.mgmt.beat.ignored = s.mgmt.beat.ignored
        ∧ t.mgmt.beat.jumped = (s.mgmt.beat.jumped || n != s.mgmt.beat.observed + 1)
        ∧ (n ≠ s.mgmt.beat.observed + 1 → s.log.queue.length < 47 → ∃ r ∈ t.log.queue, r.code = 0x0810)
        ∧ (s.mgmt.loops.tripped = false → s.mcRuns = true →
          t.mgmt.loops.duty.toNat ≤ 8 ∧ Nat.min 8 s.mgmt.bounds.dutyFloor.toNat ≤ t.mgmt.loops.duty.toNat)
        ∧ t.mgmt.rwl = s.mgmt.rwl ∧ t.mgmt.cut = s.mgmt.cut ∧ t.log.records = s.log.records)
    ∧ (∀ (n : DWord) (i : Nat) (s : State), s.functional = true → n ≤ s.mgmt.beat.observed →
      ∃ t, exec (.beatStrobe n i) s = .next t ∧ s.tells t 0x0811 false
        ∧ t = { s with log := t.log, mgmt := { s.mgmt with beat := { s.mgmt.beat with ignored := true } } })
    ∧ ∀ s : State, s.functional = true → s.mgmt.cut.isApplied = true → s.mgmt.beat.stalled = false →
      ∃ t, exec .beatStall s = .next t ∧ s.tells t 0x0812 false
        ∧ t = { s with log := t.log, mgmt := { s.mgmt with beat := { s.mgmt.beat with stalled := true }
                                                           irqStatus := s.mgmt.irqStatus ||| (1 <<< 19) } }

/-! ### Health (chapter 14) -/

/-- R336 to R338, R349: a stolen step starts in idle time, where no ready pass would use the facet; no step ends while k is 0; sixty passing steps complete the polish, which counts; a failing step restarts it
and a second failure fences the facet with event 0x0307 (R339). The signature that a step leaves has no stated value (log 163). -/
def Obligations.PolishRuns : Prop :=
  ∀ (g : Fin 128) (s : State), s.ready = true → s.facetUp g = true →
    let put (f : Facet) : State := { s with facets := vset s.facets g f }
    let puts (f : Facet) (v : DWord) : State := { s with fresh := s.fresh + 2, facets := vset s.facets g { f with signature := v } }
    ((s.mgmt.polish.disable = false ∧ s.mgmt.polish.steal = true ∧ 0 < s.dutyInForce ∧ (s.facets[g]).polishing = false
        ∧ ((s.facets[g]).polished = false ∨ (s.facets[g]).immediate = true) ∧ s.facetBusy g = false ∧ s.passWaits g = false) →
      exec (.polishStealStep g) s = .next (put { s.facets[g] with polishing := true }))
    ∧ (s.dutyInForce = 0 → ∀ ok, exec (.polishStepEnd g ok) s = .next s)
    ∧ (0 < s.dutyInForce → (s.facets[g]).polishing = true → (s.facets[g]).step.toNat < 59 →
      ∃ v, exec (.polishStepEnd g true) s = .next (puts
        { s.facets[g] with step := (s.facets[g]).step + 1, polishing := (s.facets[g]).forced || (s.facets[g]).immediate } v))
    ∧ (0 < s.dutyInForce → (s.facets[g]).polishing = true → 59 ≤ (s.facets[g]).step.toNat →
      ∃ t, exec (.polishStepEnd g true) s = .next t ∧ (t.facets[g]).step = 0 ∧ (t.facets[g]).polishing = false
        ∧ (t.facets[g]).counters.polish = satInc (s.facets[g]).counters.polish ∧ (t.facets[g]).polishBeat = s.beatNow
        ∧ (t.facets[g]).immediate = false ∧ (t.facets[g]).forced = false
        ∧ t.mgmt.polish = { s.mgmt.polish with owed := s.mgmt.polish.owed &&& ~~~((1 : BitVec 128) <<< g.val) }
        ∧ (if (s.facets[g]).repeating then s.tells t 0x0308 false else t.log = s.log)
        ∧ t = { s with facets := vset s.facets g t.facets[g], log := t.log, fresh := s.fresh + 2, mgmt := { s.mgmt with polish := t.mgmt.polish } })
    ∧ (0 < s.dutyInForce → (s.facets[g]).polishing = true → (s.facets[g]).repeating = false →
      ∃ v, exec (.polishStepEnd g false) s = .next (puts
        { s.facets[g] with failStep := (s.facets[g]).step + 1, step := 0, repeating := true
                           polishing := (s.facets[g]).forced || (s.facets[g]).immediate } v))
    ∧ (0 < s.dutyInForce → (s.facets[g]).polishing = true → (s.facets[g]).repeating = true →
      ∃ t, exec (.polishStepEnd g false) s = .next t ∧ t.facetFenced g = true ∧ t.facetUp g = false
        ∧ (∀ h : Fin 128, h ≠ g → t.facetFenced h = s.facetFenced h) ∧ (t.facets[g]).acc = [] ∧ (t.facets[g]).polishing = false
        ∧ t.mgmt.pins.svcDegraded = true ∧ t.mgmt.pins.svcReplace = true)

/-- R337: at its forced slot a core's facets in service that completed their polish start a new cycle, and the others are polished now:
those that no pass keeps busy start at once while the arrays have clock. A core takes one slot in each cycle. -/
def Obligations.ForcedSlotsPolish : Prop :=
  ∀ (c : Fin 32) (s : State), s.ready = true → s.mgmt.polish.disable = false → s.mgmt.beat.stalled = false → s.slotReached c = true →
    ∃ t, exec (.polishForcedSlot c) s = .next t
      ∧ (∀ g : Fin 128, facetCore g = c → s.facetUp g = true → (t.facets[g]).polished = false ∧ (t.facets[g]).suppressedPasses = 0
        ∧ (t.facets[g]).forced = ((s.facets[g]).forced || !(s.facets[g]).polished)
        ∧ ((s.facets[g]).polished = false → 0 < s.dutyInForce → s.facetBusy g = false → (t.facets[g]).polishing = true)
        ∧ (t.facets[g]).acc = (s.facets[g]).acc ∧ (t.facets[g]).counters = (s.facets[g]).counters)
      ∧ (∀ g : Fin 128, facetCore g ≠ c ∨ s.facetUp g = false → t.facets[g] = s.facets[g])
      ∧ t.slotReached c = false ∧ t = { s with facets := t.facets, cores := vmod s.cores c fun k => { k with lastSlot := s.slotCycle c } }

/-- R343: a pair with one clean copy restarts and counts; with none or two, or after a recent mismatch, it leaves service with its
four cores and sixteen facets, and both service outputs rise. -/
def Obligations.PairsRecoverOrLeave : Prop :=
  (∀ (i : Fin 8) (a b : Bool) (x : Option CmdRef) (s : State), s.functional = true → (s.pairs[i]).state ≠ .out → a ≠ b → s.sched.run = none →
      ∃ t, exec (.seqLockstepMismatch i a b false x) s = .next t ∧ s.tells t 0x0310 true
        ∧ (t.pairs[i]) = { s.pairs[i] with lockstep := satInc (s.pairs[i]).lockstep, parity := satAddW (s.pairs[i]).parity 1 }
        ∧ t = { s with pairs := vset s.pairs i t.pairs[i], log := t.log })
    ∧ (∀ (i : Fin 8) (a b rc : Bool) (x : Option CmdRef) (s : State), s.functional = true → (s.pairs[i]).state ≠ .out → (rc = true ∨ a = b) →
      ∃ t, exec (.seqLockstepMismatch i a b rc x) s = .next t ∧ (t.pairs[i]).lost = true ∧ (t.pairs[i]).state = .out
        ∧ (∀ c : Fin 32, stripeOf c = i → (t.cores[c]).inService = false ∧ (t.cores[c]).tasks = [])
        ∧ (∀ g : Fin 128, stripeOf (facetCore g) = i → t.facetFenced g = true) ∧ s.staysOut t
        ∧ t.mgmt.pins.svcDegraded = true ∧ t.mgmt.pins.svcReplace = true)
    ∧ ∀ (i : Fin 8) (a b : Bool) (r : CmdRef) (n : Fin 32) (j : Job) (f : InFlight) (s : State), s.functional = true →
      (s.pairs[i]).state ≠ .out → a ≠ b → s.sched.run = some n → s.jobs[n] = some j → j.flightOf r = some f → r.body = none →
      f.ending = none → f.faulted = none → s.queueFull = false →
      ∃ t u, exec (.seqLockstepMismatch i a b false (some r)) s = .next t ∧ t.jobs[n] = some u
        ∧ (u.firstFault = if j.firstFault = 0 then 0x0310 else j.firstFault)
        ∧ (∀ g, u.flightOf r = some g → g.ending = some 0x04) ∧ t.channels = s.channels ∧ t.sched = s.sched

/-- R344: the management controller restarts: meanwhile register accesses end with `ra_error`; the restart counts, with event 0x0311. A
second mismatch stops the block and quiesces the running job. -/
def Obligations.ControllerRestarts : Prop :=
  ∀ s : State, s.functional = true → s.mgmt.boot.dead = false →
    (s.mgmt.boot.stopped = false →
      exec (.mcLockstepMismatch false) s = .next { s with mgmt := { s.mgmt with boot := { s.mgmt.boot with restarting := true } } })
    ∧ (s.mgmt.boot.stopped = false →
      ∃ t, exec (.mcLockstepMismatch true) s = .next t ∧ t.mgmt.boot = { s.mgmt.boot with stopped := true } ∧ t.canWork = false
        ∧ t.mgmt.pins = { s.mgmt.pins with svcDegraded := true, svcReplace := true } ∧ t.mgmt.irqStatus = s.mgmt.irqStatus ||| (1 <<< 17)
        ∧ (s.running.isSome = true → s.resetQuiescing = false →
          t.mgmt.quiesce = some { kind := .mcStop, since := s.beatNow, reported := false })
        ∧ t = { s with ext := t.ext, tilePorts := t.tilePorts
                       mgmt := { s.mgmt with boot := t.mgmt.boot, pins := t.mgmt.pins, irqStatus := t.mgmt.irqStatus, quiesce := t.mgmt.quiesce } })
    ∧ (s.mgmt.boot.restarting = true →
      (∀ a, exec (.pairLoRead a) s = .next { s with mgmt := { s.mgmt with ra := { s.mgmt.ra with rdata := 0, error := true } } })
      ∧ ∃ t, exec .mcRestartDone s = .next t ∧ t.mgmt.boot = { s.mgmt.boot with restarting := false }
        ∧ t.log.mcRestarts = satInc s.log.mcRestarts ∧ (∃ r : Report, r.code = 0x0311 ∧ r.fault = false
          ∧ t.log = ({ s.log with mcRestarts := satInc s.log.mcRestarts } : Log).enter r)
        ∧ t = { s with log := t.log, mgmt := { s.mgmt with boot := t.mgmt.boot } })

/-- R346, R349: a reading at or above the trip temperature stops the arrays, with `pwr_trip`, event 0x030B and the guarantee void;
below it, with no trip, readings only change TEMP. Each is held with its cut's offset (zero before a cut). -/
def Obligations.ThermalTrips : Prop :=
  ∀ (l : List (BitVec 10)) (s : State), s.mcRuns = true → s.mgmt.cut.isApplied = true → s.mgmt.loops.tripped = false →
    let hot := ((List.finRange 32).map fun i => (s.corrected i (l.getD i.val 0)).toNat).foldl Nat.max 0
    ∃ t, exec (.thermalSensorUpdate l) s = .next t ∧ (∀ i : Fin 32, t.mgmt.pins.temps[i] = s.corrected i (l.getD i.val 0))
      ∧ (4 * (u8 s.mgmt.cut.operating 0x28 + 40) ≤ hot → t.dutyInForce = 0 ∧ t.guaranteeVoid = true ∧ s.tells t 0x030B false
        ∧ t = { s with log := t.log, mgmt := { s.mgmt with pins := { s.mgmt.pins with temps := t.mgmt.pins.temps, trip := true }
                                                           loops := { s.mgmt.loops with tripped := true }
                                                           polish := { s.mgmt.polish with tripSeen := true } } })
      ∧ (hot < 4 * (u8 s.mgmt.cut.operating 0x28 + 40) →
        t = { s with mgmt := { s.mgmt with pins := { s.mgmt.pins with temps := t.mgmt.pins.temps } } })

/-- R345, R347, R349, R357: a droop stretches the clock by one to sixteen sixteenths; a need beyond the bound is an excursion, told once with
0x030C; the stretch returns by sixteenths once the supply recovers, and at once to a bound that has been narrowed below it. R349: `pwr_throttle` caps
the duty at 8 − n. -/
def Obligations.SupplyLoopActs : Prop :=
  (∀ (q : BitVec 4) (p : Bool) (need : Nat) (s : State), s.functional = true → (q ≠ 0 ∨ p = true) →
      ∃ t, exec (.droopDetect q p need) s = .next t
        ∧ t.mgmt.pins = { s.mgmt.pins with droopDet := s.mgmt.pins.droopDet ||| q, droopIn := s.mgmt.pins.droopIn || p }
        ∧ 1 ≤ t.mgmt.loops.stretch ∧ s.stretchNow ≤ t.mgmt.loops.stretch ∧ t.mgmt.loops.narrowed = false
        ∧ (s.mgmt.loops.narrowed = true → s.mgmt.loops.excursion = false → 1 ≤ s.mgmt.bounds.stretchMax.toNat → need ≤ s.mgmt.bounds.stretchMax.toNat →
          t.mgmt.loops.stretch ≤ s.mgmt.bounds.stretchMax.toNat)
        ∧ (s.mgmt.loops.stretch ≤ 16 → t.mgmt.loops.stretch ≤ 16 ∧ (need ≤ 16 → need ≤ t.mgmt.loops.stretch))
        ∧ (s.mgmt.bounds.stretchMax.toNat < need → s.mgmt.loops.excursion = false →
          t.mgmt.loops.excursion = true ∧ t.guaranteeVoid = true ∧ s.tells t 0x030C false)
        ∧ (need ≤ s.mgmt.bounds.stretchMax.toNat ∨ s.mgmt.loops.excursion = true →
          t.mgmt.loops.excursion = s.mgmt.loops.excursion ∧ t.log = s.log ∧ t.mgmt.polish = s.mgmt.polish)
        ∧ t = { s with log := t.log, mgmt := { s.mgmt with pins := t.mgmt.pins
                                                           loops := { s.mgmt.loops with
                                                             stretch := t.mgmt.loops.stretch, excursion := t.mgmt.loops.excursion, narrowed := false }
                                                           polish := { s.mgmt.polish with droopExceeded := t.mgmt.polish.droopExceeded } } })
    ∧ (∀ s : State, exec .supplyRecovers s =
        .next { s with mgmt := { s.mgmt with pins := { s.mgmt.pins with droopDet := 0, droopIn := false }
                                             loops := { s.mgmt.loops with excursion := false } } })
    ∧ (∀ s : State, s.functional = true → s.mgmt.pins.droopDet = 0 → s.mgmt.pins.droopIn = false →
      exec .droopRecoveryStep s = .next { s with mgmt := { s.mgmt with loops := { s.mgmt.loops with
        narrowed := false, stretch := if s.stretchNow < s.mgmt.loops.stretch then s.stretchNow else s.mgmt.loops.stretch - 1 } } })
    ∧ ∀ (n : BitVec 3) (s : State), ∃ t, exec (.throttleInput n) s = .next t ∧ t.dutyInForce ≤ 8 - n.toNat
        ∧ t = { s with mgmt := { s.mgmt with pins := { s.mgmt.pins with throttle := n } } }

/-- R348: once in 4,096 FCLK a core's depth rises by one where its feeder starved with two slots free, else falls by one where a fetch waited for a slot,
else stays, and keeps within its bounds. R381, R382: a sealed block loads WS_BYPASS whatever the instruction; else the instruction is loaded. Under
WS_INTEST_SCAN with WPC[0] the functional clocks shift, after which the block does no work until a cold reset (log 111). Through WS_IJTAG the signature of
a facet is read out, its polish is stepped or its step forced (DEDUCED, log 111), and nothing else of it changes. R383: a boot that waited begins with
WS_BYPASS (log 151). -/
def Obligations.DepthAndWrapper : Prop :=
  (∀ (a b w : BitVec 32) (s : State), s.ready = true →
      ∃ t, exec (.prefetchLoop a b w) s = .next t
        ∧ (∀ c : Fin 32, t.cores[c] = { s.cores[c] with depth := (t.cores[c]).depth })
        ∧ (∀ c : Fin 32, (s.cores[c]).inService = false → t.cores[c] = s.cores[c])
        ∧ (∀ c : Fin 32, (s.cores[c]).inService = true → s.mgmt.bounds.prefetchMin.toNat ≤ s.depthMax →
          let d := (s.cores[c]).depth
          let lo := s.mgmt.bounds.prefetchMin.toNat
          lo ≤ (t.cores[c]).depth ∧ (t.cores[c]).depth ≤ s.depthMax
            ∧ (lo ≤ d → d ≤ s.depthMax →
              ((a &&& b).getLsbD c.val = true → (t.cores[c]).depth = Nat.min s.depthMax (d + 1))
              ∧ ((a &&& b).getLsbD c.val = false → w.getLsbD c.val = true → (t.cores[c]).depth = Nat.max lo (d - 1))
              ∧ ((a &&& b).getLsbD c.val = false → w.getLsbD c.val = false → (t.cores[c]).depth = d)))
        ∧ t = { s with cores := t.cores })
    ∧ ∀ s : State, s.mgmt.boot.held = none →
      let loaded (i : WrapperInst) (scanned : Bool) : State :=
        { s with mgmt := { s.mgmt with pins := { s.mgmt.pins with wrapper := i, wso := [], scanned := scanned } } }
      (∀ i, s.mgmt.rwl.isSealed = true → exec (.wrapperInstruction i) s = .next (loaded .bypass s.mgmt.pins.scanned))
      ∧ (s.mgmt.rwl.isSealed = false →
        exec (.wrapperInstruction .bypass) s = .next (loaded .bypass s.mgmt.pins.scanned)
        ∧ (∀ l, exec (.wrapperInstruction (.extest l)) s = .next (loaded (.extest l) s.mgmt.pins.scanned))
        ∧ (∀ d e, exec (.wrapperInstruction (.intestScan d e)) s = .next (loaded (.intestScan d e) (s.mgmt.pins.scanned || e.getLsbD 0)))
        ∧ (∀ l, ∃ t, exec (.wrapperInstruction (.ijtag l)) s = .next t ∧ t.mgmt.pins.wrapper = .ijtag l ∧ t.mgmt.pins.scanned = s.mgmt.pins.scanned
          ∧ (∀ g : Fin 128, t.facets[g] = { s.facets[g] with step := (t.facets[g]).step, signature := (t.facets[g]).signature })
          ∧ (∀ g : Fin 128, l = [.readSignature g] → t.mgmt.pins.wso = [(s.facets[g]).signature] ∧ t.facets = s.facets)
          ∧ (∀ (g : Fin 128) (k : BitVec 6), l = [.forceStep g k] → t.facets = vset s.facets g { s.facets[g] with step := k })
          ∧ (∀ g : Fin 128, l = [.singleStep g] → (t.facets[g]).step.toNat = (if (s.facets[g]).step.toNat < 59 then (s.facets[g]).step.toNat + 1 else 0)
            ∧ ∀ h : Fin 128, h ≠ g → t.facets[h] = s.facets[h])
          ∧ t = { s with facets := t.facets, fresh := t.fresh
                         mgmt := { s.mgmt with pins := { s.mgmt.pins with wrapper := t.mgmt.pins.wrapper, wso := t.mgmt.pins.wso } } }))
      ∧ ∀ ok, s.mgmt.pins.coldN = true → s.mgmt.pins.scanned = false →
        let u : State := { s with mgmt := { s.mgmt with boot := { s.mgmt.boot with held := some ok } } }
        ∃ t, exec (.wrapperInstruction .bypass) u = .next t ∧ t.mgmt.boot.held = none ∧ t.mgmt.pins.wrapper = .bypass
          ∧ (ok = true → t.mgmt.boot = { Boot.reset with step := 3, stopped := s.mgmt.boot.stopped } ∧ t.mgmt.pins.swState = 0xFFFFFFFF ∧ t.bootReadOpen 0 48)
          ∧ (ok = false → t.mgmt.boot.dead = true ∧ t.raServed = false)

/-! ### Jobs (chapter 13) -/

/-- R309, R310, R316: an entry that has been read and passes the checks takes a free place, at this beat, and the tail of the ring that it was taken from
(R391) and the client's count advance; with nothing else to run, it runs. R311: one that waits for a ring stays taken, with event 0x0607 once. The model's
choice (DESIGN CHOICE, log 142): it takes the lowest free place. -/
def Obligations.AdmissionTakesPlaces : Prop :=
  ∀ (c : Fin 256) (cycles : Nat) (e : Taken) (s : State), s.admits = true → (s.clients[c]).taken = some e → e.whole = true →
    s.reading (.client c) = false → (∃ m : Fin 32, s.jobs[m] = none) →
    s.admissionCode c (s.near (u64 e.entry 0) 256) e.entry (e.bad || s.ext.poisoned false (u64 e.entry 0) 256) = none →
    let d := readJobDesc (s.near (u64 e.entry 0) 256) e.entry
    (∀ n : Fin 32, s.ringsReady d = true → s.ext.near.wf = true → s.jobs[n] = none → (∀ m : Fin 32, m < n → (s.jobs[m]).isSome = true) →
      ∃ t j, exec (.jobAdmission c false cycles) s = .next t ∧ t.jobs[n] = some j ∧ j.client = c ∧ j.desc = d ∧ j.startBeat = s.beatNow
        ∧ j.done = 0 ∧ j.firstFault = 0 ∧ j.flight = [] ∧ j.fetchPos = 0 ∧ j.saved = none ∧ j.ended = false ∧ s.othersStay t n
        ∧ t.clients = vset s.clients c { s.clients[c] with taken := none, submitted := (s.clients[c]).submitted + 1 }
        ∧ t.ext.near.field (e.base + 0x20) 4 = (s.ext.near.field (e.base + 0x20) 4 + 1) % 2 ^ 32
        ∧ s.sameExtBut t false (e.base + 0x20) 4 ∧ (d.latency = false → t.cores = s.cores) ∧ t.facets = s.facets ∧ t.channels = s.channels
        ∧ t.log.records = s.log.records
        ∧ (s.sched.run = none → s.sched.switch = none → s.waiting = [] →
          t.sched.run = some n ∧ j.state = .running ∧ t.sched.switch = none ∧ t.sched.sliceStart = s.beatNow))
    ∧ (s.ringsReady d = false →
      ∃ t, exec (.jobAdmission c false cycles) s = .next t
        ∧ (if e.waiting then t.log = s.log else s.tells t 0x0607 false)
        ∧ t = { s with log := t.log, clients := vset s.clients c { s.clients[c] with taken := some { e with waiting := true } } })

/-- R310, R312, R316, R311: an entry that a check refuses, or whose wait for a ring is over (0x0603), is passed and counted; its client
gets a record with its cookie, the code and end_word 4, or event 0x0605 where the record's address is not aligned. -/
def Obligations.RefusedEntriesAreAnswered : Prop :=
  ∀ (c : Fin 256) (e : Taken) (code : Half) (i : Instr) (s : State), s.admits = true → (s.clients[c]).taken = some e → s.ext.near.wf = true →
    ((∃ bad cycles, i = .jobAdmission c bad cycles ∧ e.whole = true ∧ s.reading (.client c) = false ∧ (∃ m : Fin 32, s.jobs[m] = none)
        ∧ s.admissionCode c (s.near (u64 e.entry 0) 256) e.entry (e.bad || bad || s.ext.poisoned false (u64 e.entry 0) 256) = some code)
      ∨ (i = .ringWaitExpiry c ∧ code = 0x0603 ∧ e.waiting = true ∧ 0 < u32 (s.near (u64 e.entry 0) 256) 4
        ∧ s.reached (e.since + BitVec.ofNat 64 (u32 (s.near (u64 e.entry 0) 256) 4)) = true)) →
    ∃ t, exec i s = .next t ∧ t.jobs = s.jobs ∧ t.sched = s.sched ∧ t.cores = s.cores ∧ t.facets = s.facets ∧ t.mgmt = s.mgmt
      ∧ t.clients = vset s.clients c { s.clients[c] with taken := none, submitted := (s.clients[c]).submitted + 1
                                                         completed := (s.clients[c]).completed + 1 }
      ∧ (u64 e.entry 0x18 % 64 = 0 → s.tells t code true ∧ t.ext.near.field (u64 e.entry 0x18 + 0x38) 8 = 4
        ∧ BitVec.ofNat 16 (t.ext.near.field (u64 e.entry 0x18 + 0x10) 2) = code
        ∧ BitVec.ofNat 64 (t.ext.near.field (u64 e.entry 0x18) 8) = w64 e.entry 0x28
        ∧ ∀ tier x, (tier = true ∨ ((x < e.base + 0x20 ∨ e.base + 0x24 ≤ x)
            ∧ (x < u64 e.entry 0x18 ∨ u64 e.entry 0x18 + 64 ≤ x))) → (t.ext.mem tier).read x = (s.ext.mem tier).read x)
      ∧ (u64 e.entry 0x18 % 64 ≠ 0 → s.sameExtBut t false (e.base + 0x20) 4
        ∧ t.ext.near.field (e.base + 0x20) 4 = (s.ext.near.field (e.base + 0x20) 4 + 1) % 2 ^ 32
        ∧ (s.log.queue.length < 46 → s.log.held = [] → ∃ r ∈ t.log.queue, r.code = 0x0605))

/-- R315, R317, R318, R323: a slice that ends while another best-effort job waits starts a pre-emption, which goes on to a cheap point
for cheap_wait_beats at most; else a new slice begins. The passes in flight then stop at a token boundary. Commands under the nopre flag that
overrun are told once more, and lose their protection. -/
def Obligations.PreemptionIsRequested : Prop :=
  (∀ (cycles : Nat) (n : Fin 32) (j : Job) (s : State), s.ready = true → s.running = some (n, j) → j.desc.latency = false → j.ended = false →
      s.sched.switch = none → s.mgmt.quiesce = none → s.mgmt.beat.stalled = false →
      s.reached (s.sched.sliceStart + BitVec.ofNat 64 (s.sliceBeats j.desc)) = true →
      let w : Switch :=
        { phase := .stopping, stopAt := none, cheap := false, saveBeat := 0, waits := s.ringWaits n, cursor := 0, bad := false
          cheapUntil := if j.desc.cheapWait = 0 then none else some (s.beatNow + BitVec.ofNat 64 j.desc.cheapWait) }
      ∃ t, exec (.sliceEnd cycles) s = .next t ∧ t.log.records = s.log.records ∧ t.log.held = s.log.held
        ∧ ((∀ f ∈ j.flight, f.unsplit = false) → (∀ k, s.ringStepBusy n k = none) → t.log = s.log)
        ∧ ((∃ x ∈ s.waiting, x.2.desc.latency = false) →
          (∀ c : Fin 32, t.cores[c] = { s.cores[c] with tasks := (t.cores[c]).tasks })
            ∧ t = { s with log := t.log, cores := t.cores, fresh := t.fresh, sched := { s.sched with switch := some w } })
        ∧ ((∀ x ∈ s.waiting, x.2.desc.latency = true) → t = { s with log := t.log, sched := { s.sched with sliceStart := s.beatNow } }))
    ∧ (∀ (n : Fin 32) (j : Job) (w : Switch) (b : DWord) (s : State), s.switching .stopping = some (n, j, w) → w.cheapUntil = some b →
      s.reached b = true →
      ∃ t, exec .cheapWaitExpiry s = .next t ∧ (∀ c : Fin 32, t.cores[c] = { s.cores[c] with tasks := (t.cores[c]).tasks })
        ∧ t = { s with cores := t.cores, fresh := t.fresh, sched := { s.sched with switch := some { w with cheapUntil := none, stopAt := none } } })
    ∧ ∀ (n : Fin 32) (j : Job) (w : Switch) (s : State), s.switching .stopping = some (n, j, w) →
      let freed := j.flight.map fun f => if f.flagged then { f with nopre := false } else f
      ∃ t, exec .nopreOverrun s = .next t ∧ (∀ c : Fin 32, t.cores[c] = { s.cores[c] with tasks := (t.cores[c]).tasks })
        ∧ t = { s with log := t.log, cores := t.cores, fresh := t.fresh, jobs := vset s.jobs n (some { j with flight := freed }) }
        ∧ t.log.records = s.log.records
        ∧ (s.log.queue.length + j.flight.length ≤ 48 → ∀ f ∈ j.flight, f.flagged = true →
          ∃ r ∈ t.log.queue, r.code = 0x0608 ∧ r.planIndex = planWord f.ref ∧ r.label = f.label)

/-- R317, R321, R323, Table 13-3: once the job has stopped, the image of tier 0 and the control state go to the save area: all of the units in service, or at a
cheap point what its table entry says is live. The chunks go out one after the other (log 143), each after the response of the one before, and none is
skipped; the image has a place for every byte of tier 0. -/
def Obligations.SaveWritesImage : Prop :=
  (∀ (n : Fin 32) (j : Job) (w : Switch) (s : State), s.switching .stopping = some (n, j, w) → s.memWf = true → s.jobTraffic n = false →
    (s.outstanding fun q => q.origin == .save) = false →
    (w.cheapUntil = none → s.boundaryOpen n = false →
      ∃ t, exec .preemptQuiesced s = .next t ∧ s.savesAs t n j w none)
    ∧ ∀ i : Nat, w.cheapUntil.isSome = true → w.stopAt = some i → (∀ f ∈ j.flight, f.op = .reduce ∧ f.ref.plan ≠ i) →
      ∃ t, exec .cheapPointReached s = .next t ∧ s.savesAs t n j w (s.cheapLive j.desc i))
    ∧ (∀ (port : Fin 32) (tag : Byte) (q : Req) (n : Fin 32) (j : Job) (w : Switch) (sv : Saved) (s : State), s.switching .saving = some (n, j, w) →
      j.saved = some sv → s.memWf = true → (s.tilePorts[port]).reqs.find? (fun x => x.tag == some tag && x.write) = some q → q.origin = .save →
      (∀ (v : Fin 32), ∀ x ∈ (s.tilePorts[v]).reqs, x.origin = .save → v = port ∧ x.write = true ∧ x.tag = some tag) →
      ∃ u t : State, exec (.tpWriteResponse port tag false true) s = .next t ∧ u.savesChunk t j sv w ∧ u.ext = s.ext ∧ u.jobs = s.jobs ∧ u.sched = s.sched
        ∧ u.facets = s.facets ∧ ∀ c : Fin 32, (u.cores[c]).sb = (s.cores[c]).sb)
    ∧ (∀ (sv : Saved) (w : Switch), match sv.chunk w with
      | some k => w.cursor ≤ k ∧ k < chunkCount ∧ sv.keeps k = true ∧ ∀ i, w.cursor ≤ i → i < k → sv.keeps i = false
      | none => ∀ i, w.cursor ≤ i → i < chunkCount → sv.keeps i = false)
    ∧ ∀ (c : Fin 32) (l : Nat), l < 0x500000 → ∃ k, 640 ≤ k ∧ k < chunkCount ∧ imageAddr c l = chunkAt k + l % 4096
      ∧ imageCore (chunkAt k) = c ∧ imageLocal (chunkAt k) + l % 4096 = l
      ∧ ∀ sv : Saved, sv.keeps k = chunkSaved sv.cores sv.facets sv.live c (imageLocal (chunkAt k))

/-- R321, R319, R317: the header completes a save once every chunk is written, so that a restore under the same cut will take it; a save write with an error
ends the job with 0x0609. Then tier 0 is cleared, and the job is suspended, or first waits for its ring steps. The model's choice (DEDUCED, log 35): the event
0x060B of that wait comes at the clear. -/
def Obligations.SavesComplete : Prop :=
  (∀ (n : Fin 32) (j : Job) (w : Switch) (sv : Saved) (s : State), s.switching .saving = some (n, j, w) → j.saved = some sv →
      sv.chunk w = none → (s.outstanding fun q => q.origin == .save) = false → (s.ext.mem j.desc.saveFar).wf = true → s.mgmt.rwl.structDigest.length = 48 →
      let a := j.desc.saveBase + headOff
      ∃ t, exec (.saveComplete false) s = .next t ∧ t.sched = { s.sched with switch := some { w with phase := .clearing } }
        ∧ t.jobs = vset s.jobs n (some { j with saves := j.saves + 1 })
        ∧ t.headerMatches ((t.ext.mem j.desc.saveFar).bytes a 4096) = true
        ∧ (t.ext.mem j.desc.saveFar).field a 4 = 1 + 2 * boolNat sv.cheap
        ∧ (t.ext.mem j.desc.saveFar).field (a + 4) 4 = (j.saves + 1).toNat
        ∧ s.sameExtBut t j.desc.saveFar a 4096
        ∧ t = { s with ext := t.ext, tilePorts := t.tilePorts, jobs := t.jobs, sched := t.sched })
    ∧ (∀ (n : Fin 32) (j : Job) (w : Switch) (s : State), s.switching .saving = some (n, j, w) → j.ended = false → s.queueFull = false →
      ∃ t, exec (.saveComplete true) s = .next t ∧ s.failsJob t n j 0x0609 0xFFFFFFFF)
    ∧ ∀ (n : Fin 32) (j : Job) (w : Switch) (s : State), s.switching .clearing = some (n, j, w) →
      (s.outstanding fun q => q.origin == .save) = false →
      ∃ t, exec .clearComplete s = .next t ∧ (∀ c : Fin 32, (t.cores[c]).sb = [] ∧ (t.cores[c]).tasks = [])
        ∧ (∀ g : Fin 128, t.facets[g] = (s.facets[g]).blank) ∧ t.transit = [] ∧ t.ext = s.ext ∧ t.clients = s.clients
        ∧ (w.waits.any s.stillWaits = true → s.tells t 0x060B false ∧ t.jobs = s.jobs
          ∧ t.sched = { s.sched with switch := some { w with phase := .deferred } })
        ∧ (w.waits.any s.stillWaits = false → t.log = s.log ∧ s.othersStay t n
          ∧ ∃ k, t.jobs[n] = some k ∧ k.atRest = j.atRest
            ∧ (k.state = .suspended ∨ t.sched.run = some n))

/-- R325, R326: a header that does not match, is poisoned or cannot be read ends the job with 0x060A; else the saved chunks, slots,
queues and tasks come back as they were saved, chunk by chunk (log 143), the valid word is zeroed, and the job goes on in a new slice. -/
def Obligations.RestoreBringsBack : Prop :=
  (∀ (n : Fin 32) (j : Job) (w : Switch) (clean : Bool) (s : State), s.switching .restoreHeader = some (n, j, w) → j.ended = false →
      w.cursor ≠ 0 → s.reading .restore = false → s.queueFull = false →
      let a := j.desc.saveBase + headOff
      let good := clean && !w.bad && !s.ext.poisoned j.desc.saveFar a 4096 && s.headerMatches ((s.ext.mem j.desc.saveFar).bytes a 4096)
      ∃ t, exec (.restoreHeaderRead clean) s = .next t
        ∧ (good = true → ∃ i, t = { s with tilePorts := t.tilePorts, sched := { s.sched with switch := some { w with phase := .restoring, cursor := i } } }
          ∧ ∀ sv, j.saved = some sv → ∀ k, sv.chunk { w with phase := .restoring, cursor := 0 } = some k →
            i = k + 1 ∧ t.asksFor .restore [{ far := j.desc.saveFar, addr := j.desc.saveBase + chunkAt k, size := 4096, unit := 0 }])
        ∧ (good = false → s.failsJob t n j 0x060A 0xFFFFFFFF))
    ∧ (∀ (n : Fin 32) (j : Job) (w : Switch) (sv : Saved) (k : Nat) (q : Req) (s : State), s.switching .restoring = some (n, j, w) → j.ended = false →
      j.saved = some sv → s.reading .restore = false → w.cursor = k + 1 → k < chunkCount → s.memWf = true → s.queueFull = false → q.origin = .restore →
      let t := s.afterRead q
      (w.bad = true → s.failsJob t n j 0x060A 0xFFFFFFFF)
      ∧ (w.bad = false → (∀ (c : Fin 32) (l : Nat), l < 0x500000 →
          (match localFacet l with | none => (s.cores[c]).inService | some f => s.facetUp (facetIx c f)) = true →
          t.imageByte c l = if imageAddr c l / 4096 * 4096 = chunkAt k then (s.ext.mem j.desc.saveFar).read (j.desc.saveBase + imageAddr c l)
            else s.imageByte c l)
        ∧ (sv.chunk w = none → t.sched = s.sched)
        ∧ (∀ i, sv.chunk w = some i → t.sched = { s.sched with switch := some { w with cursor := i + 1 } }
          ∧ t.asksFor .restore [{ far := j.desc.saveFar, addr := j.desc.saveBase + chunkAt i, size := 4096, unit := 0 }])
        ∧ t = { s with cores := t.cores, facets := t.facets, sched := t.sched, tilePorts := t.tilePorts }))
    ∧ (∀ (n : Fin 32) (j : Job) (w : Switch) (s : State), s.switching .restoring = some (n, j, w) → j.ended = false → s.queueFull = false →
      ∃ t, exec (.restoreComplete false) s = .next t ∧ s.failsJob t n j 0x060A 0xFFFFFFFF)
    ∧ ∀ (n : Fin 32) (j : Job) (w : Switch) (sv : Saved) (s : State), s.switching .restoring = some (n, j, w) → j.saved = some sv →
      sv.cheap = false → sv.chunk w = none → s.reading .restore = false → (∀ f ∈ j.flight, f.mv = none ∧ f.work = none) → s.memWf = true →
      (∀ c : Fin 32, ∀ k ∈ (sv.ctl[c]).tasks, k.asked = [] ∧ (s.cores[c]).inService = true ∧ ∀ f ∈ k.gang, s.facetUp (facetIx c f) = true) →
      ∃ t, exec (.restoreComplete true) s = .next t ∧ t.sched = { s.sched with switch := none, sliceStart := s.beatNow }
        ∧ t.jobs = vset s.jobs n (some { j with saved := none })
        ∧ (∀ c : Fin 32, (s.cores[c]).inService = true →
          t.cores[c] = { s.cores[c] with
            hampers := (sv.ctl[c]).hampers, tasks := (sv.ctl[c]).tasks
            slots := Vector.ofFn fun i => { (sv.ctl[c]).slots[i] with retired := ((s.cores[c]).slots[i]).retired } })
        ∧ (∀ g : Fin 128, t.facets[g] = { s.facets[g] with residues := accResidues (s.facets[g]).acc })
        ∧ (t.ext.mem j.desc.saveFar).field (j.desc.saveBase + headOff) 8 = 0
        ∧ s.sameExtBut t j.desc.saveFar (j.desc.saveBase + headOff) 8
        ∧ t.transit = (sv.transit.filter fun x => (s.cores[x.core]).inService)
        ∧ t = { s with ext := t.ext, tilePorts := t.tilePorts, cores := t.cores, facets := t.facets, transit := t.transit, jobs := t.jobs
                       sched := t.sched }

/-- R328: once its accepted buckets have passed, an ended job gives its place up; where it was running, tier 0 is cleared for the next
job. The other places stand. The model's choice (DEDUCED, log 20; R316): CLIENT_COMPLETED does not count here, as it has counted when end_word was written. -/
def Obligations.EndedJobsLeave : Prop :=
  ∀ (n : Fin 32) (j : Job) (s : State), s.functional = true → s.jobs[n] = some j → j.state = .ending → j.ended = true → s.bucketsOf n = false →
    (∀ m : Fin 32, m < n → ((s.jobs[m]).map fun k => k.state == .ending && k.ended && !s.bucketsOf m).getD false = false) →
    ∃ t, exec .teardownBucketsDone s = .next t ∧ t.jobs[n] = none ∧ s.othersStay t n ∧ t.ext = s.ext ∧ t.clients = s.clients
      ∧ t.channels = s.channels ∧ t.log = s.log ∧ t.tilePorts = s.tilePorts
      ∧ (s.sched.run = some n → (∀ c : Fin 32, (t.cores[c]).sb = [] ∧ (t.cores[c]).tasks = [])
        ∧ ∀ g : Fin 128, t.facets[g] = { (s.facets[g]).blank with polishing := (t.facets[g]).polishing })
      ∧ (s.sched.run ≠ some n → t.cores = s.cores ∧ t.facets = s.facets ∧ t.transit = s.transit)

/-! ### Plans (chapters 11 and 06 to 12) -/

/-- R266, R15: the next chunk of the plan of 64 commands is asked for at its ports where it is due, and joins those read ahead once it has come; a read error at
the command that the fetch stage has come to ends the job with 0x0107 at its index. -/
def Obligations.PlanChunksArrive : Prop :=
  ∀ (n : Fin 32) (j : Job) (k : Nat) (s : State), s.ready = true → s.running = some (n, j) → s.mgmt.quiesce = none → j.ended = false →
    s.reading (.plan n) = false → s.unitHeld .seqPair s.leadIx = false → j.desc.mayRead false (j.desc.planBase + 4096 * k) 4096 = true →
    (∀ ok, j.reading = none → j.nextChunk = some k → j.badReached = none → j.endRead = false → s.fetchOpen j = true →
      ∃ t, exec (.planReadDone ok) s = .next t ∧ t.asksFor (.plan n) [nearRead (j.desc.planBase + 4096 * k) 4096]
        ∧ t = { s with tilePorts := t.tilePorts, jobs := vset s.jobs n (some { j with reading := some (k, []) }) })
    ∧ (j.reading = some (k, []) →
      let c : PlanChunk := { number := k, bytes := s.near (j.desc.planBase + 4096 * k) 4096 }
      ∃ t u, exec (.planReadDone true) s = .next t
        ∧ t = { s with tilePorts := t.tilePorts, jobs := vset s.jobs n (some { j with chunks := j.chunks ++ [c], reading := u }) })
    ∧ (j.reading = some (k, []) → j.fetchPos / 64 = k → j.roster = none → s.queueFull = false →
      ∃ t c, exec (.planReadDone false) s = .next t
        ∧ s.failsJob t n { j with chunks := j.chunks ++ [c], reading := none } 0x0107 (BitVec.ofNat 32 j.fetchPos))

/-- R267, R268: an opcode that no operation has, and a command that a check refuses, fail at issue: a report, the status byte 4, and
nothing else of the command is done; the plan goes on. -/
def Obligations.RefusedCommandsFail : Prop :=
  (∀ (x : Next) (s : State), s.next = some x → opOf x.raw = .unknown → s.askStep x = none → x.mayIssue = true → x.ref.body = none →
      (∀ f ∈ x.job.flight, f.ref ≠ x.ref) → s.writesOpen x.n x.ref = false → s.queueFull = false → s.ext.near.wf = true →
      ∃ t, exec .unknownOpcode s = .next t ∧ s.failsAtIssue t x 0x0101)
    ∧ ∀ (c : Instr) (code : Half) (x : Next) (s : State), s.issues (issueCodes c) x → s.issueError x c = some code → x.ref.body = none →
      s.queueFull = false → s.ext.near.wf = true → ∃ t, exec c s = .next t ∧ s.failsAtIssue t x code

/-- Table 11-3, R264, R298, R316, R328: END writes the completion record with end_word 1 and the count of commands, raises the job-end
interrupt, and gives the place up unless the engines still hold buckets; the END of a body ends the body. -/
def Obligations.EndEndsJobs : Prop :=
  ∀ (x : Next) (s : State), s.issues [0x00] x → s.jobWritesOpen x.n = false → s.jobHeld x.n = false → x.check 8 [] = .ok () →
    (x.ref.body = none → s.ext.near.wf = true →
      ∃ t, exec .endPlan s = .next t ∧ t.ext.near.field (x.job.desc.completion + 0x38) 8 = 1
        ∧ t.ext.near.field x.job.desc.completion 8 = x.job.desc.cookie.toNat
        ∧ t.ext.near.field (x.job.desc.completion + 0x0C) 4 = (x.job.done + 1).toNat
        ∧ t.ext.near.field (x.job.desc.completion + 0x10) 2 = x.job.firstFault.toNat
        ∧ (x.job.desc.statusBase = 0 → (∀ f ∈ x.job.flight, f.stages = []) → s.sameExtBut t false x.job.desc.completion 64)
        ∧ t.mgmt.irqStatus = s.mgmt.irqStatus ||| 1
        ∧ t.clients = vset s.clients x.job.client
          { s.clients[x.job.client] with completed := (s.clients[x.job.client]).completed + 1 }
        ∧ t.channels = s.channels ∧ t.log = s.log
        ∧ (s.bucketsOf x.n = false → t.jobs[x.n] = none ∧ (∀ c : Fin 32, (t.cores[c]).sb = [] ∧ (t.cores[c]).tasks = [])
          ∧ ∀ g : Fin 128, (t.facets[g]).acc = [])
        ∧ (s.bucketsOf x.n = true → ∃ j, t.jobs[x.n] = some j ∧ j.state = .ending ∧ j.ended = true ∧ j.done = x.job.done + 1))
    ∧ (x.ref.body.isSome = true →
      let j : Job := { x.job with ask := Ask.none, roster := x.job.roster.map fun ro => { ro with phase := .retire, bodyDone := true } }
      exec .endPlan s = .next { s with jobs := vset s.jobs x.n (some j) })

/-- R291: WAIT_BEAT waits for its beat, given or counted from its issue; MARK writes its value once all before it is complete, and
raises its interrupt if asked; a MARK outside the windows ends with 0x0201, counted at its port (R234). -/
def Obligations.WaitsAndMarks : Prop :=
  (∀ (x : Next) (s : State), s.issues [0x08] x → x.check 0x11 [] = .ok () → u8 x.raw 0x10 < 2 →
      ∃ t f, exec .waitBeat s = .next t ∧ s.passed t x ∧ s.sameBut t x.n ∧ t.ext = s.ext ∧ t.tilePorts = s.tilePorts ∧ t.log = s.log
        ∧ t.flight x.n x.ref = some f ∧ f.ending = none
        ∧ f.target = if (u8 x.raw 0x10).testBit 0 then s.beatNow + w64 x.raw 8 else w64 x.raw 8)
    ∧ (∀ (n : Fin 32) (j : Job) (r : CmdRef) (f : InFlight) (s : State), s.ready = true → s.running = some (n, j) → s.mgmt.quiesce = none →
      s.flight n r = some f → f.op = .waitBeat → f.ending = none → f.faulted = none → f.stages = [] → s.writesOpen n r = false →
      s.reached f.target = true →
      ∃ t k, exec (.waitBeatTarget r) s = .next t ∧ t.flight n r = none ∧ s.sameBut t n ∧ t.log = s.log ∧ t.jobs[n] = some k
        ∧ (r.body = none → k.done = j.done + 1) ∧ s.sameExtBut t false (j.desc.statusBase + r.plan) 1)
    ∧ ∀ (x : Next) (s : State), s.issues [0x09] x → x.check 0x19 [] = .ok () → u8 x.raw 0x18 < 2 → u64 x.raw 8 ≠ 0 → u64 x.raw 8 % 8 = 0 →
      (x.job.desc.mayWrite false (u64 x.raw 8) 8 = true → s.ext.near.wf = true →
        ∃ t, exec .mark s = .next t ∧ s.passed t x ∧ s.sameBut t x.n ∧ t.endsWith x.n x.ref 0x01 ∧ t.log = s.log
          ∧ t.ext.near.field (u64 x.raw 8) 8 = u64 x.raw 0x10 ∧ s.sameExtBut t false (u64 x.raw 8) 8
          ∧ t.mgmt.irqStatus = if (u8 x.raw 0x18).testBit 0 then s.mgmt.irqStatus ||| 2 else s.mgmt.irqStatus)
      ∧ (x.job.desc.mayWrite false (u64 x.raw 8) 8 = false → x.ref.body = none → s.queueFull = false →
        ∃ t, exec .mark s = .next t ∧ s.tells t 0x0201 true ∧ t.doneWith x
          ∧ s.sameExtBut t false (x.job.desc.statusBase + x.ref.plan) 1
          ∧ (t.tilePorts[s.portOf (u64 x.raw 8)]).windowRefusals = satInc (s.tilePorts[s.portOf (u64 x.raw 8)]).windowRefusals)

/-- R207, R218, R280 to R283: a REDUCE is handed to its channel engine, and a PRODUCT starts its walk; the plan goes on, and nothing
but a scale record is written yet. -/
def Obligations.ReduceAndProductStart : Prop :=
  (∀ (x : Next) (k : Fin 4) (r : Reduce) (s : State), s.issues [0x40] x → s.channelFull x = false → (s.asked x).checkReduce x = .ok (k, r) →
      ∃ t j, exec .reduce s = .next t ∧ s.passed t x ∧ t.worksOn x.n x.ref ∧ t.jobs[x.n] = some j
        ∧ j.chanSeq = vset x.job.chanSeq k (some (r.step, r.tag, r.seq)) ∧ (∀ m : Fin 32, m ≠ x.n → t.jobs[m] = s.jobs[m])
        ∧ t.channels = vset s.channels k { s.channels[k] with staging := (s.channels[k]).staging ++ [r] }
        ∧ t.ext = s.ext ∧ t.tilePorts = s.tilePorts ∧ t.log = s.log ∧ t.cores = s.cores ∧ t.facets = s.facets ∧ t.clients = s.clients)
    ∧ ∀ (x : Next) (i : ProdIssue) (s : State), s.issues [0x10] x → (s.asked x).checkProduct x = .ok i → i.prod.aSrc ≠ 2 →
      let w := match i.record with | some b => [(false, i.prod.scaleY.record, b)] | none => []
      x.job.desc.takes w → (∃ k < i.prod.items, k ∉ i.prod.settled) →
      ∃ t f, exec .product s = .next t ∧ s.passed t x ∧ s.sameBut t x.n ∧ t.flight x.n x.ref = some f ∧ f.ending = none
        ∧ f.prod = some i.prod ∧ t.holds (s.ext.putAll w) ∧ t.facets = s.facets

/-- R243 to R248, R15: MOVE, GATHER and SCATTER_ADD issue with their pieces to do, and ask at the tile ports for what the first one reads. A
piece whose reads are there is done at once: of a MOVE its tiles reach their places, transposed where asked; of a GATHER a token tile gets the rows
of its list, with zero rows for bad indices; of a SCATTER_ADD a row gets its source rows, in order. A MOVE of a tensor onto itself does nothing; into
a queue, a tile is read into a free slot of its core once the tiles that the commands before it fetch have been fetched (R249), and its handle goes under
way. -/
def Obligations.MoversMove : Prop :=
  (∀ (x : Next) (src dst : Desc) (turned inPlace even : Bool) (k : Nat) (l : List Nat) (s : State), s.issues [0x20] x →
      (s.asked x).checkMove x = .ok (.tiles src dst turned inPlace (k :: l), even) → s.mayStart x →
      (inPlace = true → ∃ c : Fin 32, (s.cores[c]).inService = true ∧ 2 ≤ ((s.cores[c]).hampers[(3 : Fin 16)]).length) →
      let reads := moveReads src (moveGroup src dst turned inPlace k)
      x.job.desc.sees reads →
      ∃ t, exec .move s = .next t ∧ s.begins t x (workOf (.move src dst turned inPlace) ((k :: l).map .one)) 1 ∧ t.asks x.n x.ref reads
        ∧ t.ext = s.ext)
    ∧ (∀ (x : Next) (even : Bool) (s : State), s.issues [0x20] x → (s.asked x).checkMove x = .ok (.noop, even) → s.ext.near.wf = true →
      ∃ t, exec .move s = .next t ∧ s.passed t x ∧ s.sameBut t x.n ∧ t.doneWith x
        ∧ s.sameExtBut t false (x.job.desc.statusBase + x.ref.plan) 1)
    ∧ (∀ (x : Next) (even : Bool) (mv : Mover) (src : Desc) (k : Nat) (c : Fin 32) (h : BitVec 16) (l : List (BitVec 16)) (s : State),
      s.issues [0x20] x → (s.asked x).checkMove x = .ok (.queue mv, even) → mv.src = some src → mv.dst = none → mv.todo = [(k, [c])] → s.mayStart x →
      s.inOrder x.n x.job x.ref = true →
      x.job.desc.sees [src.tileRead k] → (s.cores[c]).inService = true → (s.cores[c]).hampers[mv.cls] = h :: l →
      (s.cores[c]).findCopy (src.tileSrc 0 k mv.turned) = none → ((s.cores[c]).slots[handleSlot h]).hold = 0 →
      s.depthAllows x.n x.job [src.tileSrc 0 k mv.turned] c = true →
      ∃ t f, exec .move s = .next t ∧ s.passed t x ∧ s.sameBut t x.n ∧ t.flight x.n x.ref = some f ∧ f.ending = none
        ∧ f.mv = some { mv with taken := [(c, handleSlot h)] } ∧ (t.cores[c]).hampers[mv.cls] = l
        ∧ t.asks x.n x.ref [src.tileRead k] ∧ t.ext = s.ext)
    ∧ (∀ (n : Fin 32) (j : Job) (f : InFlight) (mv : Mover) (src : Desc) (k : Nat) (c : Fin 32) (i : Fin 64) (s : State),
      s.running = some (n, j) → s.functional = true → s.mgmt.quiesce = none → j.ended = false → j.flight = [f] → f.work = none → f.mv = some mv → f.prod = none →
      f.ending = none → f.faulted = none → f.stages = [] → mv.src = some src → mv.dst = none → mv.idx = none → mv.todo = [(k, [c])] →
      mv.taken = [(c, i)] → (s.cores[c]).inService = true → s.cmdOpen n f.ref = false → s.entryWhole mv = true → s.ext.near.wf = true →
      let t := s.pumpWorks n
      t.transit = s.transit ++ [{ core := c, queue := mv.queue, handle := s.handleOf c i }] ∧ t.flight n f.ref = none
        ∧ s.sameExtBut t false (j.desc.statusBase + f.ref.plan) 1)
    ∧ (∀ (x : Next) (even : Bool) (g : GatherPlan) (d : Desc) (s : State), s.issues [0x21] x → (s.asked x).checkGather x = .ok (g, even) →
      g.dst = some d → g.idx ≠ [] → s.mayStart x → s.participants x ≠ [] →
      (∀ c ∈ s.participants x, 2 ≤ ((s.cores[c]).hampers[(3 : Fin 16)]).length) →
      gatherReads g.src g.idx 0 ≠ [] → x.job.desc.sees (gatherReads g.src g.idx 0) →
      ∃ t, exec .gather s = .next t
        ∧ s.begins t x (workOf (.gather g.src d g.idx) ((List.range (ceilDiv g.idx.length 64)).map .one)) 1
        ∧ t.asks x.n x.ref (gatherReads g.src g.idx 0) ∧ t.ext = s.ext)
    ∧ (∀ (x : Next) (even : Bool) (p : ScatterPlan) (r : Nat) (l : List Nat) (s : State), s.issues [0x22] x → (s.asked x).checkScatter x = .ok (p, even) →
      distinctRows p.dst p.idx = r :: l → s.mayStart x → s.participants x ≠ [] →
      (∀ c ∈ s.participants x, 2 ≤ ((s.cores[c]).hampers[(3 : Fin 16)]).length) →
      let reads := scatterReads x.job.desc p.src p.dst p.idx r
      x.job.desc.sees reads →
      ∃ t, exec .scatterAdd s = .next t ∧ s.begins t x (workOf (.scatter p.src p.dst p.idx) ((r :: l).map .one)) 1 ∧ t.asks x.n x.ref reads
        ∧ t.ext = s.ext)
    ∧ ∀ (n : Fin 32) (j : Job) (f : InFlight) (w : Work) (x : Piece) (rest : List Piece) (s : State), s.atPiece n j f w x rest →
      let t := s.pumpWorks n
      (∀ o, s.pieceRun j f w x = .done o → (∀ y ∈ o.writes, j.desc.mayWrite y.far y.addr y.bytes.length = true) →
        (∀ y ∈ o.stages.flatten, j.desc.mayWrite y.1 y.2.1 y.2.2.length = true) → o.ends = [] → o.retired = [] → o.refused = [] →
        (∃ y ∈ o.writes, y.bytes ≠ []) → s.doesPiece t n f w rest o)
      ∧ (∀ src dst turned k, w.plan = .move src dst turned false → x = .one k → src.tileSize ≠ 0 →
        let a := dst.tileAddr 0 (if turned then turnTile src dst k else k)
        j.desc.opens dst.far a (a + src.tileSize) →
        (t.ext.mem dst.far).bytes a src.tileSize = (s.tileImage (src.tileSrc 0 k turned)).1 ∧ s.sameExtBut t dst.far a src.tileSize)
      ∧ (∀ src dst idx tt, w.plan = .gather src dst idx → x = .one tt → 0 < dst.across → dst.form = src.form → dst.sparse = false →
        dst.layout = .tiles → j.desc.opens dst.far dst.base (dst.base + dst.span) →
        tt < dst.down →
        (∀ tc < dst.across,
          (t.ext.mem dst.far).bytes (dst.tileAddr 0 (tt * dst.across + tc)) (64 * (8 * src.form.width)) = (s.gatherTile src idx tt tc).1)
        ∧ s.sameExtBut t dst.far dst.base dst.span)
      ∧ ∀ src dst idx r, w.plan = .scatter src dst idx → x = .one r → dst.layout = .rows → r < dst.rows → 0 < dst.cols → (dst.form = .fp32 ∨ dst.form = .wide) →
        j.desc.opens dst.far dst.base (dst.base + dst.span) →
        let e := dst.form.width / 8
        let at_ (c : Nat) : Nat := dst.base + r * dst.itemStride + e * c
        let bitAt := touchedAt j.desc dst r
        let first := dst.isLazy && !(s.ext.near.field bitAt.1 8).testBit bitAt.2
        (dst.isLazy = true → j.desc.mayWrite false bitAt.1 8 = true
          ∧ (dst.far = true ∨ rangesMeet (bitAt.1, 8) (dst.base, dst.span) = false)) →
        (∀ c < dst.cols, (t.ext.mem dst.far).field (at_ c) e
          = scatterRow dst.form first ((s.ext.mem dst.far).field (at_ c) e) (s.scatterSum src idx r c))
        ∧ (dst.isLazy = true → (t.ext.near.field bitAt.1 8).testBit bitAt.2 = true)
        ∧ ∀ tier a, (tier ≠ dst.far ∨ a < at_ 0 ∨ at_ 0 + dst.rowBytes ≤ a) →
          (tier = true ∨ first = false ∨ a < bitAt.1 ∨ bitAt.1 + 8 ≤ a) → (t.ext.mem tier).read a = (s.ext.mem tier).read a

/-- R289, R65, R258: a SETTLE issues with its tiles to do, once a scale record that it changes is written. A tile whose reads are there gets the value
of each WIDE word, FP32 where no chain changes it, and a clear of its source follows as a stage of its own; a poisoned row ends the command with
0x0202. -/
def Obligations.SettleConverts : Prop :=
  (∀ (x : Next) (p : SettlePlan) (s : State), s.issues [0x30] x → (s.asked x).checkSettle x = .ok p → s.mayStart x → 0 < p.dst.tileCount →
      (p.record = none → x.job.desc.sees (p.reads 0) →
        ∃ t, exec .settle s = .next t ∧ s.begins t x p.work 1 ∧ t.asks x.n x.ref (p.reads 0) ∧ t.ext = s.ext)
      ∧ ∀ b, p.record = some b → b ≠ [] → x.job.desc.takes [(false, p.scale.record, b)] →
        ∃ t, exec .settle s = .next t ∧ s.begins t x p.work 0 ∧ t.holds (s.ext.putAll [(false, p.scale.record, b)]))
    ∧ ∀ (n : Fin 32) (j : Job) (f : InFlight) (w : Work) (p : SettlePlan) (m : SettleSum) (k : Nat) (rest : List Piece) (s : State),
      s.atPiece n j f w (.one k) rest → w.plan = .settle p m → p.src.sparse = false → k < p.dst.tileCount →
      (p.dst.form = .fp32 → p.dst.sparse = false → p.dst.layout = .tiles → p.dst.smooth = false → p.chain = [] → s.noPoison →
        p.src.form = .wide → p.src.layout = .tiles → p.src.cols = p.dst.cols → 0 < p.dst.cols →
        j.desc.opens p.dst.far p.dst.base (p.dst.base + p.dst.span) →
        (p.clear = true → j.desc.opens false p.src.base (p.src.base + p.src.span) ∧ p.src.rows = p.dst.rows) →
        let a := p.dst.tileAddr 0 k
        let t := s.pumpWorks n
        (∀ r < p.dst.rows, ∀ c < p.dst.cols, r / 64 * p.dst.across + c / 64 = k → (t.ext.mem p.dst.far).field (p.dst.elemAddr r c) 4
          = (accRead (accOf (BitVec.ofNat 64 ((s.ext.mem p.src.far).field (p.src.elemAddr r c) 8)))).toNat)
        ∧ s.sameExtBut t p.dst.far a 16384 ∧ s.sameBut t n
        ∧ ∃ g, t.flight n f.ref = some g ∧ g.ending = none ∧ g.stages = p.clears k)
      ∧ (f.ref.body = none → ((s.settleTile p k).any fun e => e.bad) = true → s.queueFull = false →
        s.tells (s.pumpWorks n) 0x0202 true ∧ s.sameExtBut (s.pumpWorks n) false (j.desc.statusBase + f.ref.plan) 1)

/-- R177 to R188: APPLY and LAZY issue with their state blocks to do, once the clip factor, the group record and the scale record are written; a
frozen group writes its record alone, and a divisor of zero or a norm that is not finite writes no parameter. A state block writes its values, then its
header as a stage of its own, and each word of the touched bitmap is zeroed after the blocks of its rows (R194). R182: NORMSQ sums its tiles,
and leaves its total and its step in the norm record. -/
def Obligations.UpdatesApply : Prop :=
  (∀ (isLazy : Bool) (det : List Detection) (x : Next) (f : UpdFields) (i : UpdIssue) (s : State), s.issues [0x50] x →
      opOf x.raw = (if isLazy then .lazy else .apply) → (s.asked x).checkUpdate isLazy x = .ok (f, i) → s.memWf = true →
      ∃ t, exec (if isLazy then .lazy det else .apply det) s = .next t
        ∧ (∀ g, i = .frozen g → x.job.desc.takes [(false, f.sched + 64 * f.group, g)] → s.passed t x ∧ s.sameBut t x.n
          ∧ t.endsWith x.n x.ref 0x03 ∧ t.log = s.log ∧ t.holds (s.ext.putAll [(false, f.sched + 64 * f.group, g)]))
        ∧ (∀ code, i = .noop code none → s.passed t x ∧ s.sameBut t x.n ∧ t.doneWith x ∧ s.tells t code false
          ∧ s.sameExtBut t false (x.job.desc.statusBase + x.ref.plan) 1)
        ∧ (∀ code b, i = .noop code (some b) → x.job.desc.takes [(false, f.norm, b)] → s.passed t x ∧ s.sameBut t x.n
          ∧ t.endsWith x.n x.ref 0x03 ∧ s.tells t code false ∧ t.holds (s.ext.putAll [(false, f.norm, b)]))
        ∧ ∀ u norm record clamped even, i = .run u norm record clamped even → s.mayStart x → det.filterMap Detection.laneAt = [] →
          x.job.desc.takes (u.issueWrites norm record) → s.begins t x u.work 0 ∧ t.holds (s.ext.putAll (u.issueWrites norm record)))
    ∧ (∀ (n : Fin 32) (j : Job) (f : InFlight) (w : Work) (u : UpdRun) (st : Stats) (b : Nat) (o : BlockOut) (rest : List Piece) (s : State),
      s.atPiece n j f w (.blocks [b]) rest → w.plan = .update u st → s.runBlock u b = some (.ok o) → o.nonfinite = false →
      u.w.smooth = false → u.w.rotate = false →
      let copy := s.narrowCopy u [b] [o]
      let l := o.writes ++ copy.writes.map fun y => (y.far, y.addr, y.bytes)
      (∀ y ∈ l, j.desc.mayWrite y.1 y.2.1 y.2.2.length = true) → (∃ y ∈ l, y.2.2 ≠ []) →
      (∀ h, o.header = some h → j.desc.mayWrite false (u.w.headerAddr b) h.length = true) →
      let t := s.pumpWorks n
      s.sameBut t n ∧ t.holds (s.ext.putAll l) ∧ ∃ g, t.flight n f.ref = some g ∧ g.ending = none
        ∧ g.stages = o.header.toList.map (fun h => [(false, u.w.headerAddr b, h)])
        ∧ g.work = some { w with plan := .update u (st.join copy.stats), todo := rest, phase := 0 })
    ∧ (∀ (n : Fin 32) (j : Job) (f : InFlight) (w : Work) (u : UpdRun) (st : Stats) (k : Nat) (rest : List Piece) (s : State),
      s.atPiece n j f w (.word k) rest → w.plan = .update u st → j.desc.mayWrite false (u.f.bitmap + 8 * k) 8 = true →
      let t := s.pumpWorks n
      s.sameBut t n ∧ t.ext.near.field (u.f.bitmap + 8 * k) 8 = 0 ∧ s.sameExtBut t false (u.f.bitmap + 8 * k) 8)
    ∧ (∀ (x : Next) (r : NormRun) (s : State), s.issues [0x50] x → opOf x.raw = .normsq → (s.asked x).checkNorm x = .ok r →
      (r.divisor = 0 → s.ext.near.wf = true → ∃ t, exec .normsq s = .next t ∧ s.passed t x ∧ t.doneWith x
        ∧ s.sameExtBut t false (x.job.desc.statusBase + x.ref.plan) 1)
      ∧ ∀ p l, r.divisor ≠ 0 → s.mayStart x → r.work.todo = p :: l →
        let first := s.firstReads x.job r.work p
        first.2 ≠ [] → x.job.desc.sees first.2 →
        ∃ t, exec .normsq s = .next t ∧ s.begins t x r.work first.1 ∧ t.asks x.n x.ref first.2 ∧ t.ext = s.ext)
    ∧ ∀ (n : Fin 32) (j : Job) (f : InFlight) (w : Work) (r : NormRun) (sum : DWord) (s : State),
      s.running = some (n, j) → s.ready = true → s.mgmt.quiesce = none → j.ended = false → j.flight = [f] → f.work = some w → f.mv = none →
      f.prod = none → f.ending = none → f.faulted = none → f.stages = [] → w.plan = .norm r sum → w.todo = [] → s.cmdOpen n f.ref = false → s.memWf = true →
      j.desc.mayWrite false r.f.norm 12 = true →
      let t := s.pumpWorks n
      let total := if r.f.first then accOf sum else accCombine (accOf (BitVec.ofNat 64 (s.ext.near.field r.f.norm 8))) (accOf sum)
      t.ext.near.field r.f.norm 8 = (accBits total).toNat ∧ t.ext.near.field (r.f.norm + 8) 4 = r.step.toNat ∧ s.sameExtBut t false r.f.norm 12
        ∧ s.sameBut t n ∧ t.endsWith n f.ref 0x01

/-- R156 to R168: SCORE, PRUNE and REGROW issue with their tiles to do, and ask for the planes that the first one reads. A tile of SCORE writes scores and
keys, one of PRUNE its drop words; the first of REGROW says PRUNED in the record, and its planes follow as a stage of their own, those of a later one
follow at once. PRUNE and REGROW end with their counters, and then with the shadow word (R164, R172). COMMIT makes the shadow set live under
the next version, and where the shadow was built for another version only tells event 0x0543. -/
def Obligations.MaskCommandsAct : Prop :=
  (∀ (x : Next) (m : MaskRun) (src : Nat) (s : State), s.issues [0x63] x → (s.asked x).checkScore x = .ok (m, src) → s.mayStart x → 0 < m.d.tileCount →
      x.job.desc.sees (m.scoreReads src 0) →
      ∃ t, exec .score s = .next t ∧ s.begins t x (workOf (.score m src) ((List.range m.d.tileCount).map .one)) 1
        ∧ t.asks x.n x.ref (m.scoreReads src 0) ∧ t.ext = s.ext)
    ∧ (∀ (x : Next) (m : MaskRun) (mode drop quota : Nat) (s : State), s.issues [0x60] x → (s.asked x).checkPrune x = .ok (m, mode, drop, quota) →
      s.mayStart x → 0 < m.d.tileCount → x.job.desc.mayWrite false m.d.maskRec 512 = true → x.job.desc.sees (m.pruneReads mode 0) →
      ∃ t, exec .prune s = .next t ∧ s.begins t x (workOf (.prune m mode drop quota ⟨0, 0⟩) (m.prunePieces mode)) 1
        ∧ t.asks x.n x.ref (m.pruneReads mode 0) ∧ t.ext = s.ext)
    ∧ (∀ (x : Next) (m : MaskRun) (mode quota : Nat) (s : State), s.issues [0x61] x → (s.asked x).checkRegrow x = .ok (m, mode, quota) →
      s.mayStart x → 0 < m.d.tileCount → x.job.desc.mayWrite false m.d.maskRec 512 = true → x.job.desc.sees (m.regrowReads mode 0) →
      ∃ t, exec .regrow s = .next t ∧ s.begins t x (workOf (.regrow m mode quota ⟨0, 0, 0, 0, 0⟩) ((List.range m.d.tileCount).map .one)) 1
        ∧ t.asks x.n x.ref (m.regrowReads mode 0) ∧ t.ext = s.ext)
    ∧ (∀ (n : Fin 32) (j : Job) (f : InFlight) (w : Work) (k : Nat) (rest : List Piece) (m : MaskRun) (s : State), s.atPiece n j f w (.one k) rest →
      s.noPoison → m.clear j.desc → k < m.d.tileCount →
      let t := s.pumpWorks n
      (∀ src, w.plan = .score m src → s.sameBut t n
        ∧ (∀ b ∈ tileBlocks k, t.ext.near.field (m.scoreAddr b) 4 = (s.scoreBlock m (bit src 0) (bit src 1) (bit src 2) b).2.1.toNat)
        ∧ ∀ tier a, (tier = true ∨ ((a < m.base 0x78 + 16384 * k ∨ m.base 0x78 + 16384 * (k + 1) ≤ a)
            ∧ (a < m.base 0x80 + 512 * k ∨ m.base 0x80 + 512 * (k + 1) ≤ a))) → (t.ext.mem tier).read a = (s.ext.mem tier).read a)
      ∧ (∀ mode drop quota sum, w.plan = .prune m mode drop quota sum → mode < 2 → s.sameBut t n
        ∧ (∀ b ∈ tileBlocks k, t.ext.near.field (m.dropAddr b) 8
          = if (s.prunedBlocks m mode quota k).contains b then s.patternWord m b else s.dropOf m drop (s.patternWord m b) b)
        ∧ s.sameExtBut t false (m.base 0x88 + 1024 * k) 1024)
      ∧ ∀ mode quota sum, w.plan = .regrow m mode quota sum →
        let news := (tileBlocks k).map fun b => (s.newPattern m ((s.revivedIn m mode quota k).contains b) b).sel
        let planes := s.shadowTile m k news
        (k = 0 → s.sameBut t n ∧ t.ext.near.field (m.d.maskRec + 8) 4 = 1 ∧ s.sameExtBut t false (m.d.maskRec + 8) 8
          ∧ ∃ g, t.flight n f.ref = some g ∧ g.ending = none ∧ g.stages = [planes])
        ∧ (k ≠ 0 → s.sameBut t n ∧ t.holds (s.ext.putAll planes)))
    ∧ (∀ (n : Fin 32) (j : Job) (f : InFlight) (w : Work) (m : MaskRun) (s : State),
      s.running = some (n, j) → s.ready = true → s.mgmt.quiesce = none → j.ended = false → j.flight = [f] → f.work = some w → f.mv = none →
      f.prod = none → f.ending = none → f.faulted = none → f.stages = [] → w.todo = [] → s.cmdOpen n f.ref = false → s.memWf = true →
      j.desc.opens false m.d.maskRec (m.d.maskRec + 512) →
      let t := s.pumpWorks n
      (∀ mode drop quota c, w.plan = .prune m mode drop quota c → c.positions < 2 ^ 32 → c.blocks < 2 ^ 32 →
        t.ext.near.field (m.d.maskRec + 0x90) 4 = c.positions ∧ t.ext.near.field (m.d.maskRec + 0x94) 4 = c.blocks
          ∧ s.sameExtBut t false (m.d.maskRec + 0x90) 8
          ∧ ∃ g, t.flight n f.ref = some g ∧ g.ending = some 0x01
            ∧ g.stages = [[(false, m.d.maskRec + 8, leBytes 8 (1 + 2 ^ 32 * m.version.toNat))]])
      ∧ ∀ mode quota c, w.plan = .regrow m mode quota c → c.checksum < 2 ^ 64 →
        t.ext.near.field (m.d.maskRec + if maskSet m.rec_ true = 0x20 then 0x10 else 0x18) 8 = c.checksum
          ∧ ∃ g, t.flight n f.ref = some g ∧ g.ending = some 0x01 ∧ g.stages = [[m.shadowWord 2]])
    ∧ ∀ (x : Next) (m : MaskRun) (s : State), s.issues [0x62] x → (s.asked x).checkCommit x = .ok m → s.memWf = true →
      (w32 m.rec_ 0xC = m.version → x.job.desc.mayWrite false m.d.maskRec 512 = true →
        ∃ t, exec .commit s = .next t ∧ s.passed t x ∧ s.sameBut t x.n ∧ t.endsWith x.n x.ref 0x01 ∧ t.log = s.log
          ∧ t.ext.near.field m.d.maskRec 4 = (m.version + 1).toNat ∧ t.ext.near.field (m.d.maskRec + 4) 4 = 1 - u32 m.rec_ 4 % 2
          ∧ t.ext.near.field (m.d.maskRec + 8) 4 = 0 ∧ s.sameExtBut t false m.d.maskRec 12)
      ∧ (w32 m.rec_ 0xC ≠ m.version →
        ∃ t, exec .commit s = .next t ∧ s.passed t x ∧ s.sameBut t x.n ∧ t.doneWith x ∧ s.tells t 0x0543 false
          ∧ s.sameExtBut t false (x.job.desc.statusBase + x.ref.plan) 1)

/-- R296, R297, R301: a roster step waits to be filled; at its end beat the build reads the state words, the header and the work list, lists what is there, and
writes entries and work list, then the live counts; its body begins, or with nothing listed the command ends. Retire then works entry by entry: it reads an
entry, writes the token of its sequence, and then the entry and the state words. The model's choices: where the list is full and the target is reached too,
the reason byte is 3 (DEDUCED, log 108); the live counts and the state words wait for the responses of what comes before them, and the entries are worked
one after the other (DEDUCED, log 109). -/
def Obligations.RosterStepsRun : Prop :=
  (∀ (x : Next) (ro : Roster) (s : State), s.issues [0x70] x → (s.asked x).checkRoster x = .ok ro →
      ∃ t j, exec .rosterStep s = .next t ∧ s.passed t x ∧ s.sameBut t x.n ∧ t.worksOn x.n x.ref ∧ t.jobs[x.n] = some j
        ∧ j.roster = some ro ∧ ro.phase = .fillWait ∧ t.ext = s.ext ∧ t.log = s.log)
    ∧ (∀ (n : Fin 32) (j : Job) (ro : Roster) (f : InFlight) (s : State), s.rosterIn .fillWait = some (n, j, ro, f) → s.reached ro.endBeat = true →
      j.flight = [f] → f.work = none → f.mv = none → f.prod = none → f.stages = [] → s.cmdOpen n f.ref = false →
      let reads := [nearRead (ro.base + 0x1000) (8 * ro.entries), nearRead ro.base 512, nearRead ro.workList 32]
      j.desc.sees reads →
      ∃ t g w, exec .fillWaitExpiry s = .next t ∧ s.sameBut t n ∧ t.asks n f.ref reads ∧ t.ext = s.ext ∧ t.flight n f.ref = some g
        ∧ g.ending = none ∧ g.work = some w ∧ w.plan = .build (s.rosterCount ro < ro.target) none ∧ w.todo = [.one 1] ∧ w.phase = 1)
    ∧ (∀ (n : Fin 32) (j : Job) (ro : Roster) (f : InFlight) (w : Work) (expired : Bool) (x : Option (List Nat × Bool)) (rest : List Piece) (s : State),
      s.atPiece n j f w (.one 1) rest → w.plan = .build expired x → j.roster = some ro → s.buildPoison ro = false →
      let b := s.planBuild ro
      let reason := if b.listed.length = ro.maxSeqs then 3 else if expired then 2 else 1
      let lens := b.listed.map fun c => (c.i, u32 (s.entryBytes ro c.i) 0x14, u32 (s.entryBytes ro c.i) 0x10)
      let alt := b.version != 0 && b.version != ro.curVersion
      let l := ro.entryWrites b ++ s.workListWrites ro b.version alt reason lens
      j.desc.takes l → j.desc.mayWrite false (ro.base + 0x10) 12 = true → s.log.held = [] → s.log.queue.length + b.ended.length < 64 →
      let t := s.pumpWorks n
      s.sameBut t n ∧ t.holds (s.ext.putAll l)
        ∧ (∃ g live, t.flight n f.ref = some g ∧ g.ending = none ∧ g.faulted = none ∧ live.length = 12 ∧ g.stages = [[(false, ro.base + 0x10, live)]]
          ∧ g.work = some { w with plan := .build expired (some (b.listed.map (·.i), alt)), todo := rest, phase := 0 })
        ∧ (expired = true → f.events = [] → s.log.queue.length < 48 → ∃ r ∈ t.log.queue, r.code = 0x0126))
    ∧ (∀ (n : Fin 32) (j : Job) (ro : Roster) (f : InFlight) (w : Work) (expired alt : Bool) (l : List Nat) (s : State),
      s.running = some (n, j) → s.functional = true → s.mgmt.quiesce = none → j.ended = false → j.flight = [f] → f.work = some w → f.mv = none →
      f.prod = none → f.ending = none → f.faulted = none → f.stages = [] → w.plan = .build expired (some (l, alt)) → w.todo = [] →
      j.roster = some ro → s.cmdOpen n f.ref = false →
      let t := s.pumpWorks n
      (l ≠ [] → ∃ k g, t.jobs[n] = some k ∧ k.roster = some { ro with phase := .body, listed := l, alt := alt } ∧ t.flight n f.ref = some g ∧ g.work = none
        ∧ g.ending = none ∧ t.ext = s.ext ∧ t.log = s.log)
      ∧ (l = [] → t.flight n f.ref = none ∧ s.sameExtBut t false (j.desc.statusBase + f.ref.plan) 1
        ∧ ∃ k, t.jobs[n] = some k ∧ (f.ref.body = none → k.done = j.done + 1)))
    ∧ (∀ (n : Fin 32) (j : Job) (ro : Roster) (f : InFlight) (logits : Desc) (gmax : Option Desc) (e : Nat) (l : List Nat) (s : State),
      s.rosterIn .retire = some (n, j, ro, f) → j.flight = [f] → f.ref.body = none → f.work = none → f.mv = none → f.prod = none → f.stages = [] →
      s.sched.switch = none →
      s.mgmt.quiesce = none → s.cmdOpen n f.ref = false → s.retireDescs j.desc ro = .ok (logits, gmax) → ro.listed = e :: l →
      let reads := [nearRead (ro.entryAddr e) 64, nearRead (ro.wordAddr e) 8, nearRead (ro.base + 0x10) 4]
      j.desc.sees reads →
      ∃ t g w, exec .rosterRetire s = .next t ∧ s.sameBut t n ∧ t.asks n ro.ref reads ∧ t.ext = s.ext ∧ t.flight n ro.ref = some g
        ∧ g.ending = none ∧ g.work = some w ∧ w.plan = .retire logits gmax ∧ w.todo = (List.range (l.length + 1)).map .one)
    ∧ ∀ (n : Fin 32) (j : Job) (ro : Roster) (f : InFlight) (w : Work) (logits : Desc) (gmax : Option Desc) (i : Nat) (tk : Word)
      (rest : List Piece) (s : State), s.atPiece n j f w (.one i) rest → w.plan = .retire logits gmax → j.roster = some ro → f.ref = ro.ref →
      s.retireEntry ro j.desc logits gmax i = .token tk → ro.poisoned = [] →
      let e := ro.listed.getD i 0
      let a := tokenAddr (s.entryBytes ro e)
      a % 4 = 0 → j.desc.mayWrite false (a / 8 * 8) 8 = true → j.desc.mayWrite false (ro.entryAddr e + 0x10) 8 = true →
      (∀ y ∈ s.retireWord ro e tk, j.desc.mayWrite false y.2.1 y.2.2.length = true) →
      let t := s.pumpWorks n
      s.sameBut t n ∧ t.ext.near.field a 4 = tk.toNat ∧ s.sameExtBut t false a 4 ∧ t.log = s.log
        ∧ ∃ g, t.flight n f.ref = some g ∧ g.ending = none
          ∧ g.stages = [[ro.advanceWrite e (s.entryBytes ro e) tk], s.retireWord ro e tk]

/-! ### Cores and their walk (chapters 04, 06 and 10) -/

/-- R281, R285, R249 to R251, R253, R284: the governing pair gives a core the next item, the return list first, then the counter; a
SPLIT shape takes its group. A fetch fills one free slot of each target core, and asks for every beat. A handle under way joins its
queue, and the PRODUCT that reads the queue takes it; a parity error of the entry is counted and ends the command it belongs to. -/
def Obligations.ItemsAndTilesAreHandedOut : Prop :=
  (∀ (c : Fin 32) (r : CmdRef) (n : Fin 32) (j : Job) (f : InFlight) (p q : Product) (i : Nat) (s : State), s.productWorks n j r f p →
      s.mayWork f = true → p.aSrc ≠ 2 → 0 < p.items → s.canForm c p.accum p.shape p.depth = true → s.roomFor c r p = true →
      s.unitHeld .core c.val = false → p.take c = some (i, q) →
      let queued := p.handlesOf i
      (p.shape.isSplit = false →
        ∃ t g, exec (.itemTake c r) s = .next t ∧ g ∈ p.gangs (s.coreFacets c) ∧ i ∉ p.settled
          ∧ (if i ∈ p.returned then q = { p with returned := p.returned.filter (· ≠ i) }
            else p.counter ≤ i ∧ i < p.items ∧ q = { p with counter := i + 1 })
          ∧ t.cores = vset s.cores c { s.cores[c] with tasks := (s.cores[c]).tasks ++ [Task.fresh r i 0 g queued] }
          ∧ t.flight n r = some { f with prod := some { q.dropHandles [i] with
              groupCores := if p.parts = 1 then q.groupCores else q.groupCores ++ [(i, c)] } }
          ∧ t.pairs = vset s.pairs (stripeOf c)
            { s.pairs[stripeOf c] with itemsTaken := satAddW (s.pairs[stripeOf c]).itemsTaken 1 }
          ∧ (∀ m : Fin 32, m ≠ n → t.jobs[m] = s.jobs[m]) ∧ t = { s with jobs := t.jobs, cores := t.cores, pairs := t.pairs })
      ∧ (p.shape.isSplit = true → p.accum = false → p.parts = 1 → i ∉ p.returned →
        let g := p.splitGroup
        let hi := Nat.min p.items ((i / g + 1) * g)
        let l := (rangeFrom i (hi - i)).filter fun x => !p.settled.contains x
        ∃ t, exec (.itemTake c r) s = .next t
          ∧ t.cores = vset s.cores c { s.cores[c] with
              tasks := (s.cores[c]).tasks ++ l.map fun x => Task.fresh r x (x % g) (fieldFacet (s.coreFacets c) p (x % g)) (p.handlesOf x) }
          ∧ t.flight n r = some { f with prod := some (({ p with counter := hi } : Product).dropHandles l) }
          ∧ t = { s with jobs := t.jobs, cores := t.cores, pairs := t.pairs }))
    ∧ (∀ (r : CmdRef) (o : OperandRole) (tiles : List Nat) (m : BitVec 32) (n : Fin 32) (j : Job) (f : InFlight) (p : Product) (d : Desc)
      (s : State), s.productWorks n j r f p → s.mayWork f = true → p.roleDesc o = some d →
      s.notFetched r p o tiles (allCores.filter fun c => m.getLsbD c.val) = false → s.inOrder n j r = true →
      s.unitHeld .seqPair s.leadIx = false → tiles ≠ [] → (∀ k ∈ tiles, k < p.batch * p.unitCount o d) →
      let srcs := (sortNat tiles).map (s.fetchSrc j p o d)
      (srcs.map (·.size)).sum ≤ 65536 → (∀ x ∈ srcs, j.desc.mayRead x.far x.addr x.size = true) → m ≠ 0 →
      (∀ c : Fin 32, m.getLsbD c.val = true → (s.cores[c]).inService = true ∧ (s.cores[c]).hampers[(0 : Fin 16)] ≠ []
        ∧ ((s.cores[c]).hampers[(4 : Fin 16)]).length < 64 ∧ s.unreadOn n j c + srcs.length ≤ s.depthOf c ∧ ∀ x ∈ srcs, (s.cores[c]).findCopy x = none) →
      ∃ t, exec (.prefetchIssue r o tiles m) s = .next t ∧ t = { s with cores := t.cores, tilePorts := t.tilePorts }
        ∧ (∀ c : Fin 32, m.getLsbD c.val = false → t.cores[c] = s.cores[c])
        ∧ (∀ c : Fin 32, m.getLsbD c.val = true → ∃ h rest, (s.cores[c]).hampers[(0 : Fin 16)] = h :: rest
          ∧ t.cores[c] = { s.cores[c] with
              hampers := vset (s.cores[c]).hampers 0 rest, sb := (s.cores[c]).sb.clear (65536 * (handleSlot h).val) 65536
              slots := vmod (s.cores[c]).slots (handleSlot h) fun sl => sl.refill [r] (newCopies 0 srcs) })
        ∧ ∀ x ∈ srcs, ∀ b ∈ beatsOf x.addr x.size, ∃ (w : Fin 32) (q : Req), q ∈ (t.tilePorts[w]).reqs ∧ q.write = false ∧ q.far = x.far
          ∧ q.origin = .cmd n r ∧ q.addr ≤ 512 * b ∧ 512 * b < q.addr + 512 * q.beats
          ∧ ∀ c : Fin 32, m.getLsbD c.val = true →
            ∃ y ∈ q.fills, y.core = c ∧ ((s.cores[c]).hampers[(0 : Fin 16)]).head?.map handleSlot = some y.slot)
    ∧ ∀ (c : Fin 32) (q : Fin 16) (ws : List Nat) (n : Fin 32) (j : Job) (x : Transit) (s : State), s.running = some (n, j) → s.ready = true →
      s.transit.find? (fun y => y.core == c && y.queue == q) = some x → ((s.cores[c]).hampers[q]).length < 64 → s.noMover j →
      let left := dropFirst (fun y => y == x) s.transit
      let joined : Core := { s.cores[c] with hampers := vmod (s.cores[c]).hampers q (· ++ [x.handle]) }
      (s.queueReader n c q = none →
        exec (.hamperHandleArrive c q ⟨false, ws⟩) s = .next { s with transit := left, cores := vset s.cores c joined })
      ∧ (∀ f p, s.queueReader n c q = some (f, p) → s.mayWork f = true → (s.cores[c]).hampers[q] = [] →
        let ts := ((s.cores[handleCore x.handle]).slots[handleSlot x.handle]).tokenTiles
        let tt := (ts.head?.map (·.1)).getD 0
        ∃ t, exec (.hamperHandleArrive c q ⟨false, ws⟩) s = .next t ∧ t.transit = left ∧ (t.cores[c]).hampers[q] = []
          ∧ ∀ k ∈ (s.cores[c]).tasks, s.wantsTile p f.ref tt ts k = true →
            { k with queued := k.queued ++ [x.handle] } ∈ (t.cores[c]).tasks)
      ∧ (s.handleOwner n c q x.handle = none →
        exec (.hamperHandleArrive c q ⟨true, ws⟩) s = .next { s with
          transit := left
          cores := vset s.cores c { joined with counters := { joined.counters with ctrlParity := satInc joined.counters.ctrlParity } } })
      ∧ ∀ r f, s.handleOwner n c q x.handle = some r → s.flight n r = some f → f.ending = none → f.faulted = none →
        ∃ t, exec (.hamperHandleArrive c q ⟨true, ws⟩) s = .next t ∧ s.tells t 0x0306 true

/-- R78, R80, R84, R85, R90, R96 to R98, R142, R152, R254, R286: a pass loads its tiles, holds their slots, and forms the exact sum of products of
each column; the check column forms the same sum from the weight sums that it holds. A pass behind one that awaits its verdict is noted. A pass with clean
verdicts leaves exact carry rows, or, as the last of its chain, settles its item with the writes of the drain, once what the drain reads beside it has
come (R15, R63, R75, R278); suppressed rows are replayed, and reported with 0x0301, in SPLIT4 once for both column fields of a band, which share one
comparison (log 138). -/
def Obligations.PassesRun : Prop :=
  (∀ (ea ew : Nat) (l : List Act) (w : List (BitVec 14)) (x : BitVec 80 × Tag), l.length = w.length → (∀ a ∈ l, a.inside = true) →
      columnSum .mac ea ew l (w.map some) x
        = (x.1 + BitVec.ofInt 80 (List.zipWith (fun (a : Act) v => carrierInt a.c ea * carrierInt v ew) l w).sum,
          (List.zipWith (fun (a : Act) v => cellTag .mac a.c v) l w).foldl tagJoin x.2))
    ∧ (∀ (p : Product) (field ea ew : Nat) (acts : List Act) (cols : List (List (Option (BitVec 14)))), p.mode = .mac →
      (∀ a ∈ acts, a.inside = true) → (∀ col ∈ cols, col.length = acts.length) →
      let cell (a : Act) (w : Option (BitVec 14)) : Int := match w with | some w => carrierInt a.c ea * carrierInt w ew | none => 0
      p.checkTerms (p.checkCells field ew acts.length cols) field ea acts = (cols.map fun col => (List.zipWith cell acts col).sum).sum)
    ∧ (∀ (c : Fin 32) (det : List Detection) (n : Fin 32) (j k : Job) (y : InFlight × Product × Task) (f : InFlight) (p : Product) (u : Task)
      (l : List PassPlan) (q : PassPlan) (s : State), s.running = some (n, j) → j.ended = false → s.ready = true → s.dutyInForce ≠ 0 →
      s.unitHeld .core c.val = false → s.pickPass n j c = some y → det.contains .control = false →
      let s1 := s.issueDetections n c y.1 det
      s1.jobs[n] = some k → s1.pickPass n k c = some (f, p, u) → s1.passesOf k f p c u = some l → s1.nextPlan k f c p u = some q →
      s1.patternsBad k c f p u q = false → s1.carryHeld c p u l = false →
      let ts := u.tokensFrom (p.itemTokens (s1.goneIn k p c u) f.step u.item)
      let needs := s1.planNeeds k p u q ts
      let z := s1.prepare c p { u with passes := some l } l
      let held := z.1.slotsRead c p z.2 needs
      let s2 := z.1.markRead c p z.2 needs
      let x := s2.runPass k p c { z.2 with held := z.2.held ++ held } u.nextPass q ts
      ∃ t v, exec (.passIssue c det) s = .next t ∧ v ∈ (t.cores[c]).tasks ∧ v.ref = u.ref ∧ v.item = u.item ∧ v.gang = u.gang
        ∧ (u.pass = none → v.pass = some { number := u.nextPass, rows := x.2, replays := u.replays, unfed := [] } ∧ t.facets = x.1.facets
          ∧ (q.ks ≠ [] → x.2.map (·.token) = ts))
        ∧ (u.pass.isSome = true → v.pass = u.pass ∧ v.following = some (u.nextPass + 1) ∧ t.facets = s1.facets)
        ∧ (t.cores[c]).shape = BitVec.ofNat 3 p.shape.code
        ∧ (∀ (d : Fin 32) (i : Fin 64), ((t.cores[d]).slots[i]).hold = ((z.1.cores[d]).slots[i]).hold + if (d, i) ∈ held then 1 else 0)
        ∧ t = { s1 with cores := t.cores, facets := t.facets, tilePorts := t.tilePorts })
    ∧ ∀ (c : Fin 32) (r : CmdRef) (i : Nat) (n : Fin 32) (j : Job) (f : InFlight) (p : Product) (u : Task) (q : Pass) (l : List PassPlan)
      (plan : PassPlan) (s : State),
      s.productWorks n j r f p → (s.cores[c]).tasks.find? (fun t => t.ref == r && t.item == i) = some u → u.pass = some q →
      u.passes = some l → l[q.number]? = some plan → u.following = none → u.unfed = [] → q.unfed = [] →
      s.ready = true → s.mgmt.quiesce = none → s.noMover j → p.accum = false → s.noPolish c → s.unitHeld .core c.val = false →
      (∀ x ∈ u.gang, s.unitHeld .facet (facetIx c x).val = false) →
      let first := (p.itemRows i).1
      let bad := sortNat (u.poison ++ (q.rows.filter (·.poisoned)).map (·.token))
      (∀ (w : Task) (o : Pass) (x : Fin 4) (rows : List Nat), s.bandFellow c p u = some (w, o) → w.unfed = [] → o.unfed = [] →
        (s.cores[c]).tasks.find? (fun t => t.ref == r && t.item == w.item) = some w →
        let wFirst := (p.itemRows w.item).1
        bandHits first q.rows wFirst o.rows = [(x, 0x0301, rows)] →
        let hitU := rows.filter (q.rows.map fun y => y.token - first).contains
        let hitW := rows.filter (o.rows.map fun y => y.token - wFirst).contains
        hitU ≠ [] → hitW ≠ [] → q.replays + boolNat (!u.replay.isEmpty) < 3 → o.replays + boolNat (!w.replay.isEmpty) < 3 →
        (s.facets[facetIx c x]).suppressedPasses < 8 →
        ∃ t a b, exec (.passVerdict c r i []) s = .next t ∧ s.tells t 0x0301 false ∧ t.ext = s.ext ∧ t.jobs = s.jobs
          ∧ a ∈ (t.cores[c]).tasks ∧ a.ref = r ∧ a.item = i ∧ a.pass = none ∧ a.replay = sortNat ((sortNat hitU).map (· + first))
          ∧ b ∈ (t.cores[c]).tasks ∧ b.ref = r ∧ b.item = w.item ∧ b.pass = none ∧ b.replay = sortNat ((sortNat hitW).map (· + wFirst)))
      ∧ (s.bandFellow c p u = none → checkHits first q.rows = [] →
      (q.number + 1 < l.length → plan.last = false →
        ∃ t, exec (.passVerdict c r i []) s = .next t ∧ t.log = s.log ∧ t.ext = s.ext ∧ t.jobs = s.jobs ∧ t.facets = s.facets
          ∧ { u with poison := bad, pass := none, replay := [], unfed := [], replays := 0, nextPass := q.number + 1 } ∈ (t.cores[c]).tasks
          ∧ ∀ x, q.rows = [x] → x.sums.length = 64 → x.tags.length = 64 → (s.cores[c]).sb.wf = true →
            readCarry (t.cores[c]).sb (u.carryAddr p (x.token - first) (x.col / 64)) = x.sums.zip x.tags)
      ∧ (∀ (x : Fin 4) (rows : List Nat),
        let hit := (q.rows.map fun y => y.token - first).filter rows.contains
        let failed := q.replays + boolNat (!u.replay.isEmpty)
        (s.passFacets c p u.gang).contains x = true → hit ≠ [] → failed < 3 → (s.facets[facetIx c x]).suppressedPasses < 8 →
        ∃ t v, exec (.passVerdict c r i [.suppressed x rows]) s = .next t ∧ s.tells t 0x0301 false ∧ t.ext = s.ext ∧ t.jobs = s.jobs
          ∧ v ∈ (t.cores[c]).tasks ∧ v.ref = r ∧ v.item = i ∧ v.pass = none ∧ v.replay = sortNat ((sortNat hit).map (· + first))
          ∧ v.replays = failed ∧ v.nextPass = u.nextPass
          ∧ (t.facets[facetIx c x]).counters.checkMismatch = satInc (s.facets[facetIx c x]).counters.checkMismatch)
      ∧ (l.length ≤ q.number + 1 → plan.last = true → p.otherHalf i = none →
        let v : Task := { u with poison := bad, kept := q.rows.foldl (fun l y => insertRow y l) u.kept, pass := none, replay := []
                                 unfed := [], replays := 0, done := true }
        let rel := q.rows.map fun y => y.token - first
        let s1 := (s.noteDetections f c p u rel (rel.map (u.accBase + ·)) [] []).putTask c v
        let s2 := s1.seen f
        let lo := (p.itemCols i).1
        let sides := s1.sidesFor j p c v
        let rows := (joinRows (v.kept.map fun y => (s2.convertRow p (lo + y.col) y).1)).map (p.chainRow p.planned.n lo sides)
        let x := s2.itemSettle r.body.isSome j p i lo sides rows
        (s1.drainAsk n c v x.reads = none → s2.drainBad x.reads (rows.map fun y => y.1.t) = [] → s1.drainHeld c = false →
          (∀ y ∈ rows, y.1.bad = false) → i ∉ p.settled → (∀ y ∈ x.writes, y.fits j.desc = true) → (∃ m < p.items, m ≠ i ∧ m ∉ p.settled) →
          ∃ t g w, exec (.passVerdict c r i []) s = .next t ∧ t.holds (s.ext.putAll (x.writes.map fun y => (y.far, y.addr, y.bytes)))
            ∧ t.liveProduct n r = some (g, w) ∧ w.settled = insertNat i p.settled ∧ w.stats = p.stats.join x.stats
            ∧ ∀ y ∈ (t.cores[c]).tasks, y.ref = r → y.item ≠ i)
        ∧ (x.reads ≠ [] → u.asked = [] → (∀ y ∈ x.reads, 0 < y.2.2.2 ∧ j.desc.mayRead y.2.1 y.2.2.1 y.2.2.2 = true) →
          ∃ t g, exec (.passVerdict c r i []) s = .next t ∧ t.ext = s.ext ∧ t.jobs = s.jobs
            ∧ t.asksFor (.drain n r i) (x.reads.map fun y => { far := y.2.1, addr := y.2.2.1, size := y.2.2.2, unit := 0 })
            ∧ g ∈ (t.cores[c]).tasks ∧ g.ref = r ∧ g.item = i ∧ g.done = true ∧ g.asked = (x.reads.map (·.2)).eraseDups)))

/-- R138, R139, R256: a partial is combined into the range of its receiver, and its participant is done. A deadline that passes is
told once, with 0x0801 where a fallback takes over (the alternate, or zeros) and 0x0802 where none does. -/
def Obligations.PartialsAndDeadlines : Prop :=
  (∀ (r : CmdRef) (unit part : Nat) (n : Fin 32) (j : Job) (f : InFlight) (p : Product) (a b : Fin 32) (u v w : Task) (s : State),
      s.productWorks n j r f p → s.ready = true → s.mgmt.quiesce = none → s.noMover j → 0 < part → part < p.parts →
      let i := unit * p.parts + part
      let receiver := unit * p.parts + p.receiver part
      s.findTask r i = some (a, u) → s.findTask r receiver = some (b, v) → a ≠ b → s.openRange b p v = some w → p.rangeFull u = true →
      s.unitHeld .core a.val = false → s.unitHeld .core b.val = false → p.accepts part w = true → (w.done = true → p.rangeFull { w with level := w.level + 1 } = false) →
      let g := facetIx b w.accFacet
      let still (k : Facet) : Facet := { k with accRun := [] }
      (∀ x ∈ (s.facets[g]).accRun, x.2 < 3) → (s.facets[g]).badRow w.accBase w.accRows 64 = none → (s.facets[facetIx a u.accFacet]).badRow u.accBase u.accRows 64 = none →
      ∃ t, exec (.splitPartialArrive r unit ⟨part, [], []⟩) s = .next t
        ∧ still t.facets[g] = still (p.combineRange (s.facets[g]) (s.facets[facetIx a u.accFacet]).acc w.accBase u.accBase w.accRows).1
        ∧ { w with level := w.level + 1, arrived := w.arrived ++ i :: u.arrived, poison := sortNat (w.poison ++ u.poison) }
          ∈ (t.cores[b]).tasks
        ∧ (∀ y ∈ (t.cores[a]).tasks, y.ref = r → y.item ≠ i)
        ∧ t.flight n r = some { f with prod := some { p with settled := insertNat i p.settled } }
        ∧ t.ext = s.ext ∧ t.log = s.log)
    ∧ ∀ (c : Fin 32) (r : CmdRef) (n : Fin 32) (j : Job) (f : InFlight) (p : Product) (o : OperandRole) (b : DWord) (d : Desc) (s : State),
      s.productWorks n j r f p → s.ready = true → s.mgmt.quiesce = none → s.unitHeld .core c.val = false →
      p.deadline.find? (fun x => s.reached x.2 && s.lateOn j f p c x.1) = some (o, b) → p.roleDesc o = some d →
      ∃ t q, exec (.rtDeadlineMiss c r) s = .next t ∧ s.tells t (if d.fallback = .none then 0x0802 else 0x0801) false
        ∧ (t.cores[c]).counters.deadlineMiss = satInc (s.cores[c]).counters.deadlineMiss
        ∧ t.flight n r = some { f with prod := some q } ∧ q.deadline = p.deadline.filter (fun x => x.1 ≠ o)
        ∧ (d.fallback = .none → q = { p with deadline := q.deadline } ∧ t.jobs[n] = some (j.modFlight r fun g => { g with
            prod := g.prod.map fun p => { p with deadline := p.deadline.filter fun x => x.1 ≠ o } }))
        ∧ (d.fallback = .skip → q = { p with deadline := q.deadline, zeroed := p.zeroed ++ [o] })
        ∧ (d.fallback = .alt → o ≠ .index → ∀ y e, p.alts.find? (fun x => x.1 = o) = some (y, e) → q.roleDesc o = some e)
        ∧ t.ext = s.ext ∧ t.tilePorts = s.tilePorts ∧ t.facets = s.facets


/-! ### Tile ports (chapter 15) -/

/-- R257, R360, R361, R363 to R366: a beat of read data is counted and reaches the copies it fills, unless it is poisoned or its
parity is wrong, which is counted and poisons the rows. That a delivered beat is put into the image of memory, and a bad one leaves its bytes, is the
model's choice (log 1, DESIGN CHOICE), and so is that tp_rd_last changes nothing, whatever it says (log 56, DEDUCED). A command that waits for the data notes the bad beat, and goes on with its work after the last; a response to nothing is discarded with 0x020E; a write response frees its tag and
its command goes on; a failed write leaves old or new bytes; a withdrawn read goes behind the write after it; an overdue request is told
once, with its interrupt. -/
def Obligations.TilePortsAnswer : Prop :=
  (∀ (w : Fin 32) (tag : Byte) (data : List Byte) (parity : DWord) (poison last : Bool) (q : Req) (s : State), s.functional = true →
      s.memWf = true → (s.tilePorts[w]).reqs.find? (fun x => x.tag == some tag && !x.write) = some q → q.got < q.beats → q.origin ≠ .boot →
      data.length = 512 → s.unitHeld .tilePort w.val = false →
      let wrong := parity != beatParity data
      let bad := wrong || poison
      let beat := q.addr / 512 + q.got
      let mine (x : Req) : Bool := x.tag == some tag && !x.write
      let p := s.tilePorts[w]
      let reqs := if q.got + 1 = q.beats then p.reqs.filter fun x => !mine x
        else p.reqs.map fun x => if mine x then { x with got := x.got + 1 } else x
      ∃ t, exec (.tpReadData w tag data parity poison last) s = .next (if q.got + 1 = q.beats then t.afterRead q else t)
        ∧ (∀ n r, q.origin = .cmd n r → q.fills = [] → t.afterRead q = t.pumpWorks n
          ∧ ∀ f, s.flight n r = some f → ∃ g, t.flight n r = some g ∧ ((q.far, beat) ∈ g.bad ↔ bad = true)
            ∧ { g with bad := [] } = { f with bad := [] })
        ∧ t.tilePorts = vset s.tilePorts w (TilePort.pump { p with
            rdBeats := p.rdBeats + 1, rdParity := if wrong then satInc p.rdParity else p.rdParity
            rdPoison := if poison then satInc p.rdPoison else p.rdPoison, reqs := reqs } s.wrespReserve)
        ∧ (t.ext.mem q.far).bytes (512 * beat) 512 = (if bad then (s.ext.mem q.far).bytes (512 * beat) 512 else data)
        ∧ s.sameExtBut t q.far (512 * beat) 512 ∧ (beat ∈ t.ext.poison q.far ↔ poison = true)
        ∧ (∀ x ∈ q.fills, (s.cores[x.core]).inService = true →
          ∀ y, ((s.cores[x.core]).slots[x.slot]).tiles.find? (fun y => y.offset == x.offset) = some y →
          ∃ z, ((t.cores[x.core]).slots[x.slot]).tiles.find? (fun y => y.offset == x.offset) = some z ∧ beat ∉ z.missing
            ∧ (bad = false → z.poison = y.poison))
        ∧ (∀ n r, q.origin = .cmd n r → q.fills ≠ [] → t.jobs = s.jobs) ∧ t.log = s.log ∧ t.mgmt = s.mgmt)
    ∧ (∀ (w : Fin 32) (tag : Byte) (i : Instr) (s : State), s.functional = true →
      ((∃ data parity poison last, i = .tpReadData w tag data parity poison last
          ∧ (s.tilePorts[w]).reqs.find? (fun x => x.tag == some tag && !x.write) = none)
        ∨ ∃ err ok, i = .tpWriteResponse w tag err ok
          ∧ (ok = false ∨ (s.tilePorts[w]).reqs.find? (fun x => x.tag == some tag && x.write) = none)) →
      ∃ t, exec i s = .next t ∧ s.tells t 0x020E false ∧ t = { s with log := t.log, tilePorts := t.tilePorts }
        ∧ t.tilePorts = vset s.tilePorts w { s.tilePorts[w] with protos := satInc (s.tilePorts[w]).protos })
    ∧ (∀ (w : Fin 32) (tag : Byte) (q : Req) (s : State), s.functional = true → s.unitHeld .tilePort w.val = false →
      (s.tilePorts[w]).reqs.find? (fun x => x.tag == some tag && x.write) = some q →
      let p := s.tilePorts[w]
      let left := p.reqs.filter fun x => !(x.tag == some tag && x.write)
      (q.origin = .block →
        exec (.tpWriteResponse w tag false true) s
            = .next { s with tilePorts := vset s.tilePorts w (TilePort.pump { p with reqs := left } s.wrespReserve) }
        ∧ ((∀ (v : Fin 32), ∀ x ∈ (s.tilePorts[v]).reqs, x.write = true → x.tag = none → x.far = q.far → ∀ c, x.old.head? = some c →
            ∀ d ∈ q.old, d.1 < c.1 ∨ c.1 + x.old.length ≤ d.1) →
          ∃ t, exec (.tpWriteResponse w tag true true) s = .next t ∧ s.tells t 0x020B false
          ∧ t.tilePorts = vset s.tilePorts w (TilePort.pump { p with reqs := left, werrs := satInc p.werrs } s.wrespReserve)
          ∧ (s.memWf = true → ∀ far a, (t.ext.mem far).read a = (s.ext.mem far).read a
              ∨ (far = q.far ∧ (a, (t.ext.mem far).read a) ∈ q.old))
          ∧ t.jobs = s.jobs ∧ t.cores = s.cores))
      ∧ ∀ n r f j b, q.origin = .cmd n r → s.jobs[n] = some j → s.flight n r = some f → f.ending = some b → f.stages = [] →
        f.faulted = none → s.mgmt.quiesce = none → s.noMover j → s.ext.near.wf = true →
        (∀ (v : Fin 32), ∀ x ∈ (s.tilePorts[v]).reqs, x.write = true → x.origin.isCmd n r = true → v = w ∧ x.tag = some tag) →
        ∃ t k, exec (.tpWriteResponse w tag false true) s = .next t ∧ t.flight n r = none ∧ t.jobs[n] = some k
          ∧ (r.body = none → k.done = j.done + 1) ∧ t.log = s.log
          ∧ s.sameExtBut t false (j.desc.statusBase + r.plan) 1)
    ∧ (∀ (w : Fin 32) (tag : Byte) (a b c : List Req) (q v : Req) (s : State), s.functional = true →
      (s.tilePorts[w]).reqs = a ++ q :: b ++ v :: c → q.tag = some tag → q.write = false → q.got = 0 →
      (∀ x ∈ a, x.tag = some tag → x.write = true) → (∀ x ∈ b, x.write = false) → v.write = true →
      exec (.tpReadWithdraw w tag) s
        = .next { s with tilePorts := vset s.tilePorts w { s.tilePorts[w] with reqs := a ++ b ++ v :: q :: c } })
    ∧ ∀ (w : Fin 32) (tag : Byte) (q : Req) (s : State), s.functional = true →
      (s.tilePorts[w]).reqs.find? (fun x => x.tag == some tag) = some q → q.origin ≠ .boot →
      (q.timedOut = true → exec (.tpRequestTimeout w tag) s = .next s)
      ∧ (q.timedOut = false → ∃ t, exec (.tpRequestTimeout w tag) s = .next t ∧ s.tells t 0x020C false
        ∧ t.tilePorts = vset s.tilePorts w { s.tilePorts[w] with
            timeouts := satInc (s.tilePorts[w]).timeouts
            reqs := (s.tilePorts[w]).reqs.map fun x => if x.tag == some tag then { x with timedOut := true } else x }
        ∧ t = { s with log := t.log, tilePorts := t.tilePorts
                       mgmt := { s.mgmt with irqStatus := s.mgmt.irqStatus ||| (1 <<< 18) } })


/-! ### Rings (chapters 09 and 15) -/

/-- R213, R215, R371, R372: an up port discards a bad flit and counts it, with a NAK unless one has gone out since the last good flit and 1,024 FCLK
have not yet passed; so it does with a DATA flit out of sequence, whose ack and credits it takes; the expected one joins its channel's buffer, where the engine adds its own values, once they are read, to a partial and sends
the sum on; a NAK or a timeout replays all flits without ack, from the first on, and the sixteenth in a row takes the port down with 0x040C; an IDLE flit's mask is
heard (R374). -/
def Obligations.RingFlitsAreTaken : Prop :=
  (∀ (p : Fin 4) (f : RxFlit) (n : Nat) (c : Instr) (s : State), s.portUp? p = true → flitOk (rxBytes f) = false →
      c = .ringDataFlit p f n ∨ c = .ringNak p f ∨ c = .ringIdle p f →
      exec c s = .next { s with ringPorts := vset s.ringPorts p ((s.ringPorts[p]).discards f.late) })
    ∧ (∀ (p : Fin 4) (f : RxFlit) (n : Nat) (s : State), let b := rxBytes f
      s.portUp? p = true → flitOk b = true → flitType b = 1 → s.calm p → s.sched.switch = none → s.mgmt.quiesce = none →
      let r := (s.ringPorts[p]).takeAck b
      (flitSeq b ≠ r.rxSeq →
        exec (.ringDataFlit p f n) s = .next { s with ringPorts := vset s.ringPorts p (r.discards f.late) })
      ∧ (flitSeq b = r.rxSeq → ∀ k, s.chanOn p false = some k → (s.channels[k]).discard = none → (s.channels[k]).passing = 0 →
        ∀ a, (s.channels[k]).active = some a →
        let c := s.channels[k]
        let x : Payload := { bytes := flitPayload b, escape := u8 b 1 == 1, adder := n, bucket := none }
        (a.decision = none →
          exec (.ringDataFlit p f n) s = .next { s with
            ringPorts := vset s.ringPorts p { r with rxSeq := r.rxSeq + 1, nakSent := false }
            channels := vset s.channels k { c with rx := c.rx ++ [x] } })
        ∧ ∀ h, s.unitHeld .channel k.val = false → a.decision = some true → a.relay = false → a.passed = false → a.header = some h → a.flits < h.dataFlits →
          a.incoming + 2 < a.red.members → a.lap < a.ownLaps → a.readSeg = some (a.lap * a.red.members + a.incoming + 1) →
          Nat.min (60 * (a.flits + 1)) h.elements ≤ a.readTo → (s.outstanding fun q => !q.write && q.origin == .bucket k) = false → c.rx = [] → n = 0 → s.chanRecv k = p → s.chanSend k ≠ p → (s.ringPorts[s.chanSend k]).toSend = [] →
          let m := Nat.min 60 (a.elementsOf h - 60 * a.flits)
          let own := s.ownValues a.red a.badBeats ((a.red.seg a.lap (a.expect (chanFwd k)).1).1 + 60 * a.flits) m
          let sum := wordsBytes (List.zipWith fpAdd ((List.range m).map fun i => w32 x.bytes (4 * i)) own.1)
          ∃ t, exec (.ringDataFlit p f n) s = .next t ∧ t.ext = s.ext ∧ t.log = s.log ∧ t.jobs = s.jobs
            ∧ (t.ringPorts[s.chanSend k]).queued = (s.ringPorts[s.chanSend k]).queued ++ [sum]
            ∧ t.channels = vset s.channels k { c with active := some { a with
                flits := a.flits + 1, sumIn := a.sumIn + flitSum x.bytes, sumOut := a.sumOut + flitSum sum
                ownPoison := a.ownPoison || own.2 } }))
    ∧ (∀ (p : Fin 4) (f : RxFlit) (c : Instr) (r : RingPort) (s : State), let b := rxBytes f
      s.portUp? p = true → s.calm p → s.sched.switch = none →
      ((c = .ringNak p f ∧ flitOk b = true ∧ flitType b = 2 ∧ r = (s.ringPorts[p]).takeAck b)
        ∨ (c = .ringReplayTimeout p ∧ r = s.ringPorts[p])) → r.unacked ≠ [] →
      let all := r.sent ++ r.unacked.map fun u => r.flit 1 u.2.escape u.1 u.2.bytes
      (r.noProgress < 15 → exec c s = .next { s with ringPorts := vset s.ringPorts p { r with
        replays := satIncH r.replays, noProgress := r.noProgress + 1, sent := all.drop (all.length - 1024) } })
      ∧ (15 ≤ r.noProgress → ∃ t, exec c s = .next t ∧ s.tells t 0x040C false ∧ (t.ringPorts[p]).state = .down
        ∧ (t.ringPorts[p]).downs = satInc r.downs ∧ (t.ringPorts[p]).replays = satIncH r.replays ∧ (t.ringPorts[p]).queued = []
        ∧ t.ext = s.ext ∧ t.jobs = s.jobs ∧ t.channels = s.channels))
    ∧ ∀ (p : Fin 4) (f : RxFlit) (s : State), let b := rxBytes f
      s.portUp? p = true → flitOk b = true → flitType b = 0 → s.calm p → s.sched.switch = none →
      let r := s.ringPorts[p]
      exec (.ringIdle p f) s = .next { s with ringPorts := vset s.ringPorts p { r.takeAck b with
        heard := r.recent s.beatNow ++ [(BitVec.ofNat 128 (field (flitPayload b) 0 16), s.beatNow)] } }

/-- R341, R368, R369, R373, R374: once all lanes are locked, their alignment words at most 16 FCLK apart, whose delays then bring them level, or the
adapter is Active with Streaming and the Raw Format, the port sends TRAIN flits; training takes sixteen good flits in a row in both directions, and a wrong identity ends it with 0x040E; the
trained rate is shown in UCIe mode; a port that is down trains again 64 beats after its last attempt, asking its adapter for the Active state, whose code 1 the spec does not give (log
115), or enabling its lanes; a port that loses its link goes down with 0x040C (which lane is lost, or which state the adapter is in, is free: log 162), and one that comes
back tells 0x040D; masks count for 8 beats, and go out again in IDLE flits. -/
def Obligations.RingLinksTrain : Prop :=
  (∀ (p : Fin 4) (x : PhyUp) (s : State), s.linkReady = true → (s.ringPorts[p]).state = .training →
      let r := s.ringPorts[p]
      let train := r.flit 3 false 0 (s.trainPayload p)
      (s.mgmt.pins.rpMode.getLsbD p.val = true →
        let q : RingPort := { r with trainGood := 0, ucieRate := x.rate
                                     fdi := { state := r.lpStateReq, inband := x.inband, valid := x.valid, streaming := x.streaming, raw := x.raw } }
        let new : RingPort := if x.inband && x.valid && x.streaming && x.raw then ({ q with phyUp := true } : RingPort).send train
          else { q with phyUp := false }
        exec (.ringPhyUp p x) s = .next { s with ringPorts := vset s.ringPorts p new })
      ∧ (s.mgmt.pins.rpMode.getLsbD p.val = false →
        let q : RingPort := { r with trainGood := 0, ucieRate := 0, laneLock := 0xFFFF }
        let new : RingPort := match laneDelays x.lanes with
          | some d => ({ q with laneDelay := d, phyUp := true } : RingPort).send train
          | none => { q with laneDelay := [], phyUp := false }
        exec (.ringPhyUp p x) s = .next { s with ringPorts := vset s.ringPorts p new }))
    ∧ (∀ (lanes : List (List DWord)) (d : List Nat), laneDelays lanes = some d → lanes.length = 16 ∧ d.length = 16 ∧ (∀ x ∈ d, x ≤ 16 * 64)
      ∧ ∃ last, ∀ l < 16, ∃ i, alignAt l (lanes.getD l []) = some i ∧ i + d.getD l 0 = last)
    ∧ (∀ (p : Fin 4) (f : RxFlit) (peer : Bool) (s : State), s.linkReady = true → (s.ringPorts[p]).state = .training →
      let r := s.ringPorts[p]
      let b := rxBytes f
      (r.phyUp = false → exec (.ringTrain p f peer) s = .next s) ∧ (r.phyUp = true →
      (flitOk b = false → exec (.ringTrain p f peer) s
        = .next { s with ringPorts := vset s.ringPorts p { r with crcs := satInc r.crcs, trainGood := 0 } })
      ∧ (flitOk b = true → flitType b = 3 → s.trainOk p (flitPayload b) = false →
        ∃ t, exec (.ringTrain p f peer) s = .next t ∧ s.tells t 0x040E false ∧ t = { s with log := t.log, ringPorts := t.ringPorts }
          ∧ t.ringPorts = vset s.ringPorts p { r with state := .down, trainGood := 0, trainFails := satInc r.trainFails })
      ∧ (flitOk b = true → flitType b = 3 → s.trainOk p (flitPayload b) = true → (r.trainGood + 1 < 16 ∨ peer = false) →
        exec (.ringTrain p f peer) s = .next { s with ringPorts := vset s.ringPorts p { r with trainGood := r.trainGood + 1 } })
      ∧ (flitOk b = true → flitType b = 3 → s.trainOk p (flitPayload b) = true → 16 ≤ r.trainGood + 1 → peer = true →
        ∃ t, exec (.ringTrain p f peer) s = .next t ∧ (t.ringPorts[p]).state = .up ∧ (t.ringPorts[p]).everUp = true
          ∧ (t.ringPorts[p]).peerUid = w32 (flitPayload b) 4 ∧ (t.ringPorts[p]).rxSeq = 0 ∧ (t.ringPorts[p]).txSeq = 0
          ∧ (t.ringPorts[p]).normFree = 2048 ∧ (t.ringPorts[p]).queued = [] ∧ t.ext = s.ext ∧ t.jobs = s.jobs
          ∧ (if r.everUp then s.tells t 0x040D false else t.log = s.log))))
    ∧ (∀ (p : Fin 4) (s : State), s.linkReady = true →
      let r := s.ringPorts[p]
      (r.state = .down → (s.portRole p).isSome = true → s.mgmt.beat.stalled = false → s.reached (r.lastTry + 64) = true →
        let q : RingPort := { r with state := .training, trainGood := 0, phyUp := false, lastTry := s.beatNow }
        let again : RingPort := if s.mgmt.pins.rpMode.getLsbD p.val then { q with lpStateReq := 1 }
          else { q with serdesRstN := true, laneEn := 0xFFFF }
        exec (.ringTrainRetry p) s = .next { s with ringPorts := vset s.ringPorts p again })
      ∧ ((s.mgmt.beat.stalled = true ∨ s.reached (r.lastTry + 64) = false) → exec (.ringTrainRetry p) s = .next s)
      ∧ (r.state = .up → ∃ t, exec (.ringPortDown p) s = .next t ∧ s.tells t 0x040C false ∧ (t.ringPorts[p]).state = .down
        ∧ (if s.mgmt.pins.rpMode.getLsbD p.val then (t.ringPorts[p]).fdi.state ≠ 1 else (t.ringPorts[p]).laneLock ≠ 0xFFFF)
        ∧ (t.ringPorts[p]).phyUp = false ∧ (t.ringPorts[p]).downs = satInc r.downs ∧ (t.ringPorts[p]).queued = []
        ∧ (r.everUp = true → t.mgmt.pins.svcDegraded = true) ∧ t.mgmt.pins.svcReplace = s.mgmt.pins.svcReplace
        ∧ (∀ q : Fin 4, q ≠ p → t.ringPorts[q] = s.ringPorts[q]) ∧ t.jobs = s.jobs ∧ t.channels = s.channels ∧ t.ext = s.ext)
      ∧ ∀ g nx, r.state = .up → s.portRole p = some (g, nx) →
        let new := ({ r with downMask := s.ringMask g } : RingPort).send (r.flit 0 false 0 (leBytes 16 (s.ringMask g).toNat))
        exec (.idleInsert p) s = .next { s with ringPorts := vset s.ringPorts p new })
    ∧ ∀ (p : Fin 4) (s : State), s.functional = true → ∃ t, exec (.downMaskExpiry p) s = .next t
      ∧ t = { s with ringPorts := vset s.ringPorts p { s.ringPorts[p] with heard := (t.ringPorts[p]).heard } }
      ∧ ∀ x, x ∈ (t.ringPorts[p]).heard ↔ x ∈ (s.ringPorts[p]).heard ∧ s.beatNow ≤ x.2 + 8

/-- R202, R209, R211, R212, R216 to R229: a staged bucket starts, unless it is one that the engine has relayed; once its contribution is ready the engine reads its own values, and contributes, with one
member by writing the result, else by sending its segment, run by run where it is longer than one run of reads; past its deadline it sends an empty segment without its position, tells 0x0820 and
counts the skip; held flits of a bucket with no REDUCE are relayed past their deadline; at its limit a bucket is abandoned with 0x0821, and what the port
has still to send of it is dropped; a bucket that has passed writes its record, the state word after all else (R226), and its REDUCE completes. The segments of the laps cover every element. -/
def Obligations.BucketsRun : Prop :=
  (∀ (k : Fin 4) (r : Reduce) (l : List Reduce) (s : State), s.engineRuns k = true → (s.channels[k]).active = none →
      (s.channels[k]).staging = r :: l → r.thin ≤ 1 →
      let c : Channel := { (s.channels[k]).useStep r with staging := l }
      c.lost r.step r.tag r.seq = false → (c.lastSeq = 0xFFFF ∨ c.lastSeq.toNat < r.seq) →
      (s.channels[k]).remembered.find? (·.isOf r) = none →
      ∃ a, exec (.bucketStart k) s = .next { s with channels := vset s.channels k { c with active := some a } } ∧ a.red = r
        ∧ a.relay = false ∧ a.decision = none ∧ a.lap = 0 ∧ a.incoming = 0 ∧ a.ownLaps = 0 ∧ a.readSeg = none ∧ a.passed = false
        ∧ a.wasReady = s.contribReady r)
    ∧ (∀ (k : Fin 4) (a : Active) (s : State), s.engineRuns k = true → (s.channels[k]).active = some a → a.relay = false → a.passed = false →
      a.header = none → a.ownAt = 0 → a.ownSum = 0 → a.ownBad = false →
      a.lap = 0 → a.ownLaps = 0 → a.incoming = 0 → (s.channels[k]).rx = [] → (s.outstanding fun q => !q.write && q.origin == .bucket k) = false →
      let seg := a.red.seg 0 (if a.red.members ≤ 1 then 0 else a.red.rank)
      (a.decision = none → s.decision a = some true → seg.2 ≠ 0 → a.readSeg = none →
        let m := Nat.min a.red.readRun seg.2
        let w := if a.red.wide then 8 else 4
        extentRuns a.red.extents seg.1 m ≠ [] →
        ∃ t, exec (.contributionDecision k) s = .next t ∧ t.ext = s.ext ∧ t.log = s.log ∧ t.jobs = s.jobs
          ∧ (t.channels[k]).active = some { a with decision := some true, readSeg := some 0, readTo := m }
          ∧ t.asksFor (.bucket k) ((extentRuns a.red.extents seg.1 m).map fun x => nearRead (x.1 + w * x.2.2.1) (w * x.2.2.2)))
      ∧ (∀ src dst e, a.decision = some true → a.red.members = 1 → a.red.extents = [(src, dst, e)] → a.red.elements = e → 0 < e → e ≤ segFull →
        a.readSeg = some 0 → e ≤ a.readTo → s.memWf = true → (a.red.wide = false ∨ src + 8 * e ≤ dst ∨ dst + 4 * e ≤ src) →
        let t := s.pump k
        t.ext.near.bytes dst (4 * e) = (((s.ownValues a.red a.badBeats 0 e).1).map fun v => leBytes 4 v.toNat).flatten
          ∧ s.sameExtBut t false dst (4 * e) ∧ t.log = s.log ∧ t.jobs = s.jobs
          ∧ ∃ b, (t.channels[k]).active = some b ∧ b.red = a.red ∧ b.decision = some true ∧ b.passed = true)
      ∧ (2 ≤ a.red.members → a.decision = some true → a.readSeg = some 0 → seg.2 ≤ a.readTo →
        let own := s.ownValues a.red a.badBeats seg.1 (Nat.min a.red.readRun seg.2)
        let h : SegHeader :=
          { tag := a.red.tag, step := a.red.step, seq := a.red.seq, lap := 0, segment := a.red.rank, phase := 0, empty := false
            m := a.red.members, elements := seg.2, weightSum := BitVec.ofNat 64 a.red.weight, bitmap := s.included k a.red.job
            deadline := a.red.deadline.getD 0xFFFFFFFFFFFFFFFF, limit := a.red.limit }
        let t := s.pump k
        let sum := ((dataPayloads own.1).map flitSum).foldl (· + ·) 0
        (own.1.length = seg.2 →
          t.ext = s.ext ∧ t.log = s.log ∧ t.jobs = s.jobs ∧ (t.channels[k]).active = some { a with ownLaps := 1 }
          ∧ (t.ringPorts[s.chanSend k]).queued = (s.ringPorts[s.chanSend k]).queued ++ h.bytes :: dataPayloads own.1 ++ [h.trailer own.2 sum])
        ∧ (own.1.length < seg.2 → own.1 ≠ [] → (s.ringPorts[s.chanSend k]).state ≠ .up →
          t.ext = s.ext ∧ t.log = s.log ∧ t.jobs = s.jobs
          ∧ (t.channels[k]).active = some { a with ownAt := own.1.length, ownSum := sum, ownBad := own.2 }
          ∧ (t.ringPorts[s.chanSend k]).queued = (s.ringPorts[s.chanSend k]).queued ++ h.bytes :: dataPayloads own.1))
      ∧ ∀ c, 2 ≤ a.red.members → a.decision = none → s.contribReady a.red = false → s.contribLate a.red = true → a.wasReady = false →
        s.sched.switch = none → s.memWf = true → (c = .contributionDecision k ∨ c = .reduceDeadline k) →
        let h : SegHeader :=
          { tag := a.red.tag, step := a.red.step, seq := a.red.seq, lap := 0, segment := a.red.rank, phase := 0, empty := true
            m := a.red.members, elements := seg.2, weightSum := 0
            bitmap := s.included k a.red.job &&& ~~~a.red.mask, deadline := a.red.deadline.getD 0xFFFFFFFFFFFFFFFF, limit := a.red.limit }
        ∃ t, exec c s = .next t ∧ s.tells t 0x0820 false ∧ t.jobs = s.jobs
          ∧ t.ext.near.field (a.red.bucket + 0x2C) 4 = (s.ext.near.field (a.red.bucket + 0x2C) 4 + 1) % 2 ^ 32
          ∧ s.sameExtBut t false (a.red.bucket + 0x2C) 4
          ∧ (t.channels[k]).active = some { a with decision := some false, ownLaps := 1 }
          ∧ (t.ringPorts[s.chanSend k]).queued = (s.ringPorts[s.chanSend k]).queued ++ [h.bytes, h.trailer false 0])
    ∧ (∀ (k : Fin 4) (x : Payload) (s : State), s.linkReady = true → s.unitHeld .channel k.val = false → (s.channels[k]).active = none → (s.channels[k]).staging = [] →
      (s.channels[k]).rx = [x] → (s.channels[k]).discard = none → (s.channels[k]).passing = 0 →
      let h := readHeader x.bytes
      (s.channels[k]).lost h.step h.tag h.seq = false → s.claims k h = true → h.deadline ≠ 0xFFFFFFFFFFFFFFFF → s.reached h.deadline = true →
      ((h.tag == (s.channels[k]).tag && h.step == (s.channels[k]).step) = false ∨ (s.channels[k]).lastSeq = 0xFFFF
        ∨ (s.channels[k]).lastSeq.toNat < h.seq) → h.phase = 0 → h.lap = 0 →
      h.segment < h.m → 2 ≤ h.m → (s.ringPorts[s.chanSend k]).toSend = [] → s.chanOn (s.chanSend k) true = some k →
      ∃ t a own pass, exec (.unissuedBucketDeadline k) s = .next t ∧ (t.channels[k]).rx = [] ∧ (t.channels[k]).active = some a
        ∧ a.relay = true ∧ a.red.seq = h.seq ∧ a.red.tag = h.tag ∧ a.header = some h
        ∧ (t.ringPorts[s.chanSend k]).queued = (s.ringPorts[s.chanSend k]).queued ++ [SegHeader.bytes own, own.trailer false 0, SegHeader.bytes pass]
        ∧ own.empty = true ∧ own.tag = h.tag ∧ own.segment = a.red.rank ∧ pass.segment = h.segment ∧ pass.elements = h.elements
        ∧ pass.empty = h.empty ∧ pass.weightSum = h.weightSum ∧ pass.bitmap = h.bitmap &&& ~~~((1 : BitVec 128) <<< s.ringPos (chanRing k))
        ∧ t.ext = s.ext ∧ t.jobs = s.jobs ∧ t.log = s.log)
    ∧ (∀ (k : Fin 4) (a : Active) (j : Job) (f : InFlight) (s : State), s.engineRuns k = true → (s.channels[k]).active = some a →
      a.relay = false → s.jobs[a.red.job] = some j → s.flight a.red.job a.red.ref = some f → f.ending = none → f.faulted = none →
      j.ended = false → a.red.ref.body = none → s.sched.switch = none → s.memWf = true →
      (s.reached a.red.limit = true → (s.channels[k]).rx = [] →
        ∃ t, exec (.bucketLimit k) s = .next t ∧ s.tells t 0x0821 true ∧ (t.channels[k]).active = none
          ∧ (t.channels[k]).lost a.red.step a.red.tag a.red.seq = true
          ∧ (t.ringPorts[s.chanSend k]).toSend = (s.ringPorts[s.chanSend k]).toSend.filter (fun x => x.bucket != a.bucket)
          ∧ t.ext.near.field a.red.bucket 4 = a.red.step.toNat
          ∧ t.ext.near.field (a.red.bucket + 4) 4 = 3 ∧ s.sameExtBut t false a.red.bucket 8
          ∧ (s.queueFull = false → t.endsWith a.red.job a.red.ref 0x05))
      ∧ (a.passed = true → (s.outstanding fun q => q.write && q.origin == .bucket k) = false → a.disagree = false → a.red.thin ≤ 1 →
        let v := a.finals.getD (0, 0)
        ∃ t c, exec (.bucketPassed k) s = .next t ∧ t.channels = vset s.channels k c ∧ c.active = none
          ∧ c.lastSeq = (if (s.channels[k]).lastSeq = 0xFFFF then BitVec.ofNat 16 a.red.seq
              else BitVec.ofNat 16 (Nat.max (s.channels[k]).lastSeq.toNat a.red.seq)) ∧ c.staging = (s.channels[k]).staging
          ∧ t.ext.near.field (a.red.bucket + 8) 8 = v.2.toNat ∧ t.ext.near.field (a.red.bucket + 16) 16 = v.1.toNat
          ∧ (a.poison = false → s.sameExtBut t false (a.red.bucket + 8) 24 ∧ t.endsWith a.red.job a.red.ref 0x01 ∧ t.log = s.log
            ∧ ∃ g, t.flight a.red.job a.red.ref = some g
              ∧ g.stages = f.stages ++ [[(false, a.red.bucket, leBytes 4 a.red.step.toNat ++ leBytes 4 1)]])
          ∧ (a.poison = true → t.ext.near.field a.red.bucket 4 = a.red.step.toNat ∧ t.ext.near.field (a.red.bucket + 4) 4 = 4
            ∧ s.sameExtBut t false a.red.bucket 32 ∧ s.tells t 0x0403 true)))
    ∧ ∀ (r : Reduce) (i : Nat), 0 < r.members → i < r.elements →
      ∃ lap < r.laps, ∃ m < r.members, (r.seg lap m).1 ≤ i ∧ i < (r.seg lap m).1 + (r.seg lap m).2
end

