-- ==== Sys2Proof/Laws/Memory.lean ====
section
/-! SUPPORT. Byte memories: what a read gives after each operation, and that every operation keeps the canonical form. -/

namespace Sys2Proof.Machine

/-! ### Canonical form -/

theorem Mem.wfFrom_cons {lo k : Nat} {v : Byte} {r : Mem} :
    Mem.wfFrom lo ((k, v) :: r) = true ↔ lo ≤ k ∧ v ≠ Config.emptyByte ∧ r.wfFrom (k + 1) = true := by
  simp [Mem.wfFrom, and_assoc]

theorem Mem.wfFrom_mono {m : Mem} {a b : Nat} (h : m.wfFrom b = true) (hab : a ≤ b) : m.wfFrom a = true := by
  cases m with
  | nil => rfl
  | cons c r =>
    obtain ⟨k, v⟩ := c
    rw [Mem.wfFrom_cons] at h ⊢
    exact ⟨by omega, h.2⟩

theorem Mem.wfFrom_zero {m : Mem} {a : Nat} (h : m.wfFrom a = true) : m.wf = true := Mem.wfFrom_mono h (Nat.zero_le a)

@[simp] theorem Mem.wf_nil : Mem.wf [] = true := rfl

theorem Mem.wfFrom_write {m : Mem} {lo : Nat} (h : m.wfFrom lo = true) (a : Nat) (b : Byte) (ha : lo ≤ a) : (m.write a b).wfFrom lo = true := by
  induction m generalizing lo with
  | nil =>
    simp only [Mem.write]
    split
    · rfl
    · next hb => exact Mem.wfFrom_cons.2 ⟨ha, hb, rfl⟩
  | cons c r ih =>
    obtain ⟨k, v⟩ := c
    obtain ⟨h1, h2, h3⟩ := Mem.wfFrom_cons.1 h
    simp only [Mem.write]
    split
    · next hk => exact Mem.wfFrom_cons.2 ⟨h1, h2, ih h3 (by omega)⟩
    · split
      · next hk =>
        split
        · exact Mem.wfFrom_mono h3 (by omega)
        · next hb => subst hk; exact Mem.wfFrom_cons.2 ⟨h1, hb, h3⟩
      · split
        · exact h
        · next hb => exact Mem.wfFrom_cons.2 ⟨ha, hb, Mem.wfFrom_cons.2 ⟨by omega, h2, h3⟩⟩

/-- A write keeps the canonical form. -/
@[simp] theorem Mem.wf_write {m : Mem} (h : m.wf = true) (a : Nat) (b : Byte) : (m.write a b).wf = true :=
  Mem.wfFrom_write h a b (Nat.zero_le a)

@[simp] theorem Mem.wf_writeBytes {m : Mem} (h : m.wf = true) (a : Nat) (l : List Byte) : (m.writeBytes a l).wf = true := by
  induction l generalizing m a with
  | nil => exact h
  | cons b r ih => exact ih (Mem.wf_write h a b) (a + 1)

@[simp] theorem Mem.wf_writeCells {m : Mem} (h : m.wf = true) (l : List Host.Cell) : (m.writeCells l).wf = true := by
  induction l generalizing m with
  | nil => exact h
  | cons c r ih => exact ih (Mem.wf_write h c.1 c.2)

theorem Mem.wfFrom_filter {m : Mem} {lo : Nat} (h : m.wfFrom lo = true) (p : Host.Cell → Bool) : Mem.wfFrom lo (m.filter p) = true := by
  induction m generalizing lo with
  | nil => rfl
  | cons c r ih =>
    obtain ⟨k, v⟩ := c
    obtain ⟨h1, h2, h3⟩ := Mem.wfFrom_cons.1 h
    simp only [List.filter_cons]
    split
    · exact Mem.wfFrom_cons.2 ⟨h1, h2, ih h3⟩
    · exact Mem.wfFrom_mono (ih h3) (by omega)

/-- Leaving out entries keeps the canonical form. -/
@[simp] theorem Mem.wf_filter {m : Mem} (h : m.wf = true) (p : Host.Cell → Bool) : Mem.wf (m.filter p) = true := Mem.wfFrom_filter h p

@[simp] theorem Mem.wf_part {m : Mem} (h : m.wf = true) (a n : Nat) : (m.part a n).wf = true := Mem.wf_filter h _

@[simp] theorem Mem.wf_clear {m : Mem} (h : m.wf = true) (a n : Nat) : (m.clear a n).wf = true := Mem.wf_filter h _

/-! ### Reads after writes -/

theorem Mem.read_below {m : Mem} {lo a : Nat} (h : m.wfFrom lo = true) (ha : a < lo) : m.read a = Config.emptyByte := by
  cases m with
  | nil => rfl
  | cons c r =>
    obtain ⟨k, v⟩ := c
    obtain ⟨h1, h2, h3⟩ := Mem.wfFrom_cons.1 h
    simp [Mem.read, show ¬ k < a by omega, show ¬ k = a by omega]

theorem Mem.read_write_from {m : Mem} {lo : Nat} (h : m.wfFrom lo = true) (a : Nat) (b : Byte) (x : Nat) :
    (m.write a b).read x = if x = a then b else m.read x := by
  induction m generalizing lo with
  | nil =>
    simp only [Mem.write]
    split
    · next hb => split <;> simp [Mem.read, hb]
    · next hb =>
      by_cases hx : x = a
      · simp [Mem.read, hx]
      · simp only [Mem.read, hx, if_false]
        split
        · rfl
        · split <;> first | rfl | omega
  | cons c r ih =>
    obtain ⟨k, v⟩ := c
    obtain ⟨h1, h2, h3⟩ := Mem.wfFrom_cons.1 h
    simp only [Mem.write]
    split
    · next hk =>
      simp only [Mem.read]
      split
      · exact ih h3
      · split
        · rw [if_neg (by omega)]
        · rw [if_neg (by omega)]
    · split
      · next hk =>
        subst hk
        split
        · next hb =>
          by_cases hx : x = k
          · subst hx; simp [Mem.read_below h3 (Nat.lt_succ_self x), hb]
          · simp only [Mem.read, hx, if_false]
            split
            · rfl
            · rw [if_neg (fun e => hx e.symm), Mem.read_below h3 (by omega)]
        · simp only [Mem.read]
          by_cases hx : x = k
          · simp [hx]
          · simp only [hx, if_false]
            split
            · rfl
            · rw [if_neg (fun e => hx e.symm), if_neg (fun e => hx e.symm)]
      · next hk hk' =>
        split
        · next hb =>
          by_cases hx : x = a
          · subst hx; simp [Mem.read, hk, hk', hb]
          · simp [hx]
        · by_cases hx : x = a
          · subst hx; simp [Mem.read]
          · rw [if_neg hx]
            by_cases hlt : a < x
            · simp [Mem.read, hlt]
            · simp [Mem.read, hlt, show ¬ a = x from fun e => hx e.symm, show ¬ k < x by omega, show ¬ k = x by omega]

/-- A read after a write: the byte written at its address, what was there before at every other. -/
theorem Mem.read_write {m : Mem} (h : m.wf = true) (a : Nat) (b : Byte) (x : Nat) :
    (m.write a b).read x = if x = a then b else m.read x := Mem.read_write_from h a b x

/-- A read after a write of consecutive bytes. -/
theorem Mem.read_writeBytes {m : Mem} (h : m.wf = true) (a : Nat) (l : List Byte) (x : Nat) :
    (m.writeBytes a l).read x = if a ≤ x ∧ x < a + l.length then l.getD (x - a) 0 else m.read x := by
  induction l generalizing m a with
  | nil => rw [if_neg (by simp only [List.length_nil]; omega)]; rfl
  | cons b r ih =>
    simp only [Mem.writeBytes, ih (Mem.wf_write h a b) (a + 1), Mem.read_write h, List.length_cons]
    by_cases h1 : x = a
    · subst h1; simp [show ¬ x + 1 ≤ x by omega]
    · by_cases h2 : a + 1 ≤ x ∧ x < a + 1 + r.length
      · rw [if_pos h2, if_pos (by omega)]
        obtain ⟨d, hd⟩ : ∃ d, x - a = d + 1 := ⟨x - a - 1, by omega⟩
        simp [hd, show x - (a + 1) = d by omega]
      · rw [if_neg h2, if_neg h1, if_neg (by omega)]

/-- Outside the bytes written, a read gives what it gave before. -/
theorem Mem.read_writeBytes_other {m : Mem} (h : m.wf = true) (a : Nat) (l : List Byte) (x : Nat) (hx : x < a ∨ a + l.length ≤ x) :
    (m.writeBytes a l).read x = m.read x := by
  rw [Mem.read_writeBytes h, if_neg (by omega)]

theorem Mem.read_filter_from {m : Mem} {lo : Nat} (h : m.wfFrom lo = true) (p : Host.Cell → Bool) (x : Nat) (hp : ∀ v, p (x, v) = true) :
    Mem.read (m.filter p) x = m.read x := by
  induction m generalizing lo with
  | nil => rfl
  | cons c r ih =>
    obtain ⟨k, v⟩ := c
    obtain ⟨h1, h2, h3⟩ := Mem.wfFrom_cons.1 h
    simp only [List.filter_cons]
    by_cases hk : k = x
    · subst hk; simp [hp, Mem.read]
    · split
      · simp only [Mem.read]
        split
        · exact ih h3
        · rfl
      · simp only [Mem.read]
        split
        · exact ih h3
        · next hlt => rw [Mem.read_below (Mem.wfFrom_filter h3 p) (by omega)]

/-- Outside a cleared range, a read gives what it gave before. -/
theorem Mem.read_clear_other {m : Mem} (h : m.wf = true) (a n x : Nat) (hx : x < a ∨ a + n ≤ x) : (m.clear a n).read x = m.read x := by
  refine Mem.read_filter_from h _ x fun v => ?_
  simp
  omega

/-- The bytes of a range are the reads of its addresses. -/
theorem Mem.bytes_eq {m : Mem} (h : m.wf = true) (a n : Nat) : m.bytes a n = (List.range n).map fun i => m.read (a + i) := by
  simp only [Mem.bytes]
  refine List.map_congr_left fun i hi => ?_
  have hi := List.mem_range.1 hi
  refine Mem.read_filter_from h _ _ fun v => ?_
  simp
  omega

/-- The bytes written to a range are read back from it. -/
theorem Mem.bytes_writeBytes {m : Mem} (h : m.wf = true) (a : Nat) (l : List Byte) : (m.writeBytes a l).bytes a l.length = l := by
  rw [Mem.bytes_eq (Mem.wf_writeBytes h a l)]
  refine List.ext_getElem (by simp) fun i h1 h2 => ?_
  simp only [List.length_map, List.length_range] at h1
  simp [Mem.read_writeBytes h, h1]

/-- A write elsewhere leaves the bytes of a range alone. -/
theorem Mem.bytes_writeBytes_other {m : Mem} (h : m.wf = true) (a : Nat) (l : List Byte) (b n : Nat) (hd : b + n ≤ a ∨ a + l.length ≤ b) :
    (m.writeBytes a l).bytes b n = m.bytes b n := by
  rw [Mem.bytes_eq (Mem.wf_writeBytes h a l), Mem.bytes_eq h]
  refine List.map_congr_left fun i hi => ?_
  have hi := List.mem_range.1 hi
  exact Mem.read_writeBytes_other h a l _ (by omega)

end Sys2Proof.Machine
end

