-- ==== Sys2Proof/WellFormed.lean ====
section
/-! DEFINITION. Which commands are well formed: operands of the lengths and ranges that the spec gives them. -/

namespace Sys2Proof

/-- A detection names tokens of one pass (R88), lanes of one drain (R333), rows of one accumulator memory (R127) and words of
one slot (R257). -/
def Detection.wf : Detection → Bool
  | .suppressed _ tokens => tokens.all (· < 4096)
  | .dual _ tokens => tokens.all (· < 4096)
  | .feeder _ => true
  | .accStage _ word => word < 32768
  | .residue _ row => row < 512
  | .drainLane row lane => row < 4096 && lane < 128
  | .control => true
  | .tagParity _ => true
  | .slotParity _ word => word < 8192

/-- A polish has 60 steps (R336). -/
def WrapperInst.wf : WrapperInst → Bool
  | .ijtag l => l.all fun a => match a with | .forceStep _ k => k.toNat < 60 | _ => true
  | _ => true

/-- A flit is 32 words of 64 bits, sixteen in each of two FCLK (R368). -/
def RxFlit.wf (x : RxFlit) : Bool := x.words.length == 2 && x.words.all fun l => l.length == 16

/-- The checks of each command: a key hash of 48 bytes (R44), an image within the 1 MiB that R43 reads, 512-byte data beats
(R360), 256-byte flits (R370), sixteen lanes (R367), 32 sensor readings (R346), polish steps (R382). -/
def Instr.wf : Instr → Bool
  | .keyHashReadDone hash _ => hash.length == 48
  | .cutImageReadDone image _ => image.length ≤ 1048576
  | .seqSelfCheckDone _ => true
  | .bootPolishDone failing => failing.all fun f => f.2.toNat < 37
  | .apply det => det.all Detection.wf
  | .lazy det => det.all Detection.wf
  | .passIssue _ det => det.all Detection.wf
  | .hamperHandleArrive _ _ parity => parity.words.all (· < 8192)
  | .passVerdict _ _ _ det => det.all Detection.wf
  | .tpReadData _ _ data _ _ _ => data.length == 512
  | .ringDataFlit _ flit _ => flit.wf
  | .ringNak _ flit => flit.wf
  | .ringIdle _ flit => flit.wf
  | .ringTrain _ flit _ => flit.wf
  | .ringPhyUp _ phy => phy.lanes.length == 16
  | .wrapperInstruction inst => inst.wf
  | .thermalSensorUpdate readings => readings.length == 32
  | .splitPartialArrive _ _ range => range.participant < 32 && range.sent.all Detection.wf && range.det.all Detection.wf
  | _ => true

end Sys2Proof
end

