-- ==== Sys2Proof/Laws/PerInstr.lean ====
section
/-! SUPPORT. Statements for every command as syntax, one lemma a constructor. -/

namespace Sys2Proof.Laws

/-- No word of the table spells the command: the rows of the table give no bits. -/
def Wordless.Statement (i : Instr) : Prop := ∀ nbits w : Nat, decodeTableWord nbits w ≠ some i

/-- A decoder that spells nothing spells no command in particular. -/
theorem wordless (i : Instr) : Wordless.Statement i := fun _ _ h => by cases h

theorem Wordless.powerOnReset : Wordless.Statement .powerOnReset := wordless _
theorem Wordless.coldResetAssert : Wordless.Statement .coldResetAssert := wordless _
theorem Wordless.coldResetRelease (rpMode : BitVec 4) (arrayNominal : BitVec 5) (selfCheck : Bool) : Wordless.Statement (.coldResetRelease rpMode arrayNominal selfCheck) := wordless _
theorem Wordless.blockResetCold (selfCheck : Bool) : Wordless.Statement (.blockResetCold selfCheck) := wordless _
theorem Wordless.blockResetWarm : Wordless.Statement .blockResetWarm := wordless _
theorem Wordless.blockResetJob : Wordless.Statement .blockResetJob := wordless _
theorem Wordless.quiesceComplete (selfCheck : Bool) : Wordless.Statement (.quiesceComplete selfCheck) := wordless _
theorem Wordless.quiesceTimeout : Wordless.Statement .quiesceTimeout := wordless _
theorem Wordless.keyHashReadDone (hash : List Byte) (clean : Bool) : Wordless.Statement (.keyHashReadDone hash clean) := wordless _
theorem Wordless.cutImageReadDone (image : List Byte) (clean : Bool) : Wordless.Statement (.cutImageReadDone image clean) := wordless _
theorem Wordless.bootReadTimeout : Wordless.Statement .bootReadTimeout := wordless _
theorem Wordless.cutHashDone : Wordless.Statement .cutHashDone := wordless _
theorem Wordless.cutSignatureDone : Wordless.Statement .cutSignatureDone := wordless _
theorem Wordless.seqSelfCheckDone (failed : BitVec 8) : Wordless.Statement (.seqSelfCheckDone failed) := wordless _
theorem Wordless.bootBeatTimeout : Wordless.Statement .bootBeatTimeout := wordless _
theorem Wordless.bootPolishDone (failing : List (Fin 128 × BitVec 6)) : Wordless.Statement (.bootPolishDone failing) := wordless _
theorem Wordless.cutSeal : Wordless.Statement .cutSeal := wordless _
theorem Wordless.rwlNarrowWrite (addr : BitVec 24) (value : Word) : Wordless.Statement (.rwlNarrowWrite addr value) := wordless _
theorem Wordless.polishDisable (disable : Bool) (steal : Bool) : Wordless.Statement (.polishDisable disable steal) := wordless _
theorem Wordless.polishNow (disable : Bool) (steal : Bool) : Wordless.Statement (.polishNow disable steal) := wordless _
theorem Wordless.adaptBoundsWrite (value : Word) : Wordless.Statement (.adaptBoundsWrite value) := wordless _
theorem Wordless.irqStatusClear (value : Word) : Wordless.Statement (.irqStatusClear value) := wordless _
theorem Wordless.jobAbort (value : Word) : Wordless.Statement (.jobAbort value) := wordless _
theorem Wordless.inclSelWrite (value : Word) : Wordless.Statement (.inclSelWrite value) := wordless _
theorem Wordless.pairLoRead (addr : BitVec 24) : Wordless.Statement (.pairLoRead addr) := wordless _
theorem Wordless.registerWrite (addr : BitVec 24) (value : Word) : Wordless.Statement (.registerWrite addr value) := wordless _
theorem Wordless.beatStrobe (count : DWord) (interval : Nat) : Wordless.Statement (.beatStrobe count interval) := wordless _
theorem Wordless.beatStall : Wordless.Statement .beatStall := wordless _
theorem Wordless.jobAdmission (client : Fin 256) (parityError : Bool) (overrun : Nat) : Wordless.Statement (.jobAdmission client parityError overrun) := wordless _
theorem Wordless.ringWaitExpiry (client : Fin 256) : Wordless.Statement (.ringWaitExpiry client) := wordless _
theorem Wordless.sliceEnd (overrun : Nat) : Wordless.Statement (.sliceEnd overrun) := wordless _
theorem Wordless.preemptQuiesced : Wordless.Statement .preemptQuiesced := wordless _
theorem Wordless.cheapPointReached : Wordless.Statement .cheapPointReached := wordless _
theorem Wordless.cheapWaitExpiry : Wordless.Statement .cheapWaitExpiry := wordless _
theorem Wordless.nopreOverrun : Wordless.Statement .nopreOverrun := wordless _
theorem Wordless.saveComplete (writeError : Bool) : Wordless.Statement (.saveComplete writeError) := wordless _
theorem Wordless.clearComplete : Wordless.Statement .clearComplete := wordless _
theorem Wordless.restoreHeaderRead (clean : Bool) : Wordless.Statement (.restoreHeaderRead clean) := wordless _
theorem Wordless.restoreComplete (clean : Bool) : Wordless.Statement (.restoreComplete clean) := wordless _
theorem Wordless.teardownBucketsDone : Wordless.Statement .teardownBucketsDone := wordless _
theorem Wordless.planReadDone (clean : Bool) : Wordless.Statement (.planReadDone clean) := wordless _
theorem Wordless.unknownOpcode : Wordless.Statement .unknownOpcode := wordless _
theorem Wordless.endPlan : Wordless.Statement .endPlan := wordless _
theorem Wordless.waitBeat : Wordless.Statement .waitBeat := wordless _
theorem Wordless.waitBeatTarget (cmd : CmdRef) : Wordless.Statement (.waitBeatTarget cmd) := wordless _
theorem Wordless.mark : Wordless.Statement .mark := wordless _
theorem Wordless.product : Wordless.Statement .product := wordless _
theorem Wordless.move : Wordless.Statement .move := wordless _
theorem Wordless.gather : Wordless.Statement .gather := wordless _
theorem Wordless.scatterAdd : Wordless.Statement .scatterAdd := wordless _
theorem Wordless.settle : Wordless.Statement .settle := wordless _
theorem Wordless.reduce : Wordless.Statement .reduce := wordless _
theorem Wordless.apply (det : List Detection) : Wordless.Statement (.apply det) := wordless _
theorem Wordless.lazy (det : List Detection) : Wordless.Statement (.lazy det) := wordless _
theorem Wordless.normsq : Wordless.Statement .normsq := wordless _
theorem Wordless.score : Wordless.Statement .score := wordless _
theorem Wordless.prune : Wordless.Statement .prune := wordless _
theorem Wordless.regrow : Wordless.Statement .regrow := wordless _
theorem Wordless.commit : Wordless.Statement .commit := wordless _
theorem Wordless.rosterStep : Wordless.Statement .rosterStep := wordless _
theorem Wordless.fillWaitExpiry : Wordless.Statement .fillWaitExpiry := wordless _
theorem Wordless.rosterRetire : Wordless.Statement .rosterRetire := wordless _
theorem Wordless.itemTake (core : Fin 32) (cmd : CmdRef) : Wordless.Statement (.itemTake core cmd) := wordless _
theorem Wordless.prefetchIssue (cmd : CmdRef) (operand : OperandRole) (tiles : List Nat) (cores : BitVec 32) : Wordless.Statement (.prefetchIssue cmd operand tiles cores) := wordless _
theorem Wordless.hamperHandleArrive (core : Fin 32) (queue : Fin 16) (parity : HandleParity) : Wordless.Statement (.hamperHandleArrive core queue parity) := wordless _
theorem Wordless.passIssue (core : Fin 32) (det : List Detection) : Wordless.Statement (.passIssue core det) := wordless _
theorem Wordless.passVerdict (core : Fin 32) (cmd : CmdRef) (item : Nat) (det : List Detection) : Wordless.Statement (.passVerdict core cmd item det) := wordless _
theorem Wordless.splitPartialArrive (cmd : CmdRef) (unit : Nat) (range : SplitRange) : Wordless.Statement (.splitPartialArrive cmd unit range) := wordless _
theorem Wordless.rtDeadlineMiss (core : Fin 32) (cmd : CmdRef) : Wordless.Statement (.rtDeadlineMiss core cmd) := wordless _
theorem Wordless.tpReadData (port : Fin 32) (tag : Byte) (data : List Byte) (parity : DWord) (poison : Bool) (last : Bool) : Wordless.Statement (.tpReadData port tag data parity poison last) := wordless _
theorem Wordless.tpWriteResponse (port : Fin 32) (tag : Byte) (err : Bool) (beatsAccepted : Bool) : Wordless.Statement (.tpWriteResponse port tag err beatsAccepted) := wordless _
theorem Wordless.tpReadWithdraw (port : Fin 32) (tag : Byte) : Wordless.Statement (.tpReadWithdraw port tag) := wordless _
theorem Wordless.tpRequestTimeout (port : Fin 32) (tag : Byte) : Wordless.Statement (.tpRequestTimeout port tag) := wordless _
theorem Wordless.ringDataFlit (port : Fin 4) (flit : RxFlit) (adderFaults : Nat) : Wordless.Statement (.ringDataFlit port flit adderFaults) := wordless _
theorem Wordless.ringNak (port : Fin 4) (flit : RxFlit) : Wordless.Statement (.ringNak port flit) := wordless _
theorem Wordless.ringIdle (port : Fin 4) (flit : RxFlit) : Wordless.Statement (.ringIdle port flit) := wordless _
theorem Wordless.ringTrain (port : Fin 4) (flit : RxFlit) (peerPassed : Bool) : Wordless.Statement (.ringTrain port flit peerPassed) := wordless _
theorem Wordless.ringReplayTimeout (port : Fin 4) : Wordless.Statement (.ringReplayTimeout port) := wordless _
theorem Wordless.ringPortDown (port : Fin 4) : Wordless.Statement (.ringPortDown port) := wordless _
theorem Wordless.ringPhyUp (port : Fin 4) (phy : PhyUp) : Wordless.Statement (.ringPhyUp port phy) := wordless _
theorem Wordless.ringTrainRetry (port : Fin 4) : Wordless.Statement (.ringTrainRetry port) := wordless _
theorem Wordless.downMaskExpiry (port : Fin 4) : Wordless.Statement (.downMaskExpiry port) := wordless _
theorem Wordless.idleInsert (port : Fin 4) : Wordless.Statement (.idleInsert port) := wordless _
theorem Wordless.bucketStart (chan : Fin 4) : Wordless.Statement (.bucketStart chan) := wordless _
theorem Wordless.contributionDecision (chan : Fin 4) : Wordless.Statement (.contributionDecision chan) := wordless _
theorem Wordless.reduceDeadline (chan : Fin 4) : Wordless.Statement (.reduceDeadline chan) := wordless _
theorem Wordless.unissuedBucketDeadline (chan : Fin 4) : Wordless.Statement (.unissuedBucketDeadline chan) := wordless _
theorem Wordless.bucketLimit (chan : Fin 4) : Wordless.Statement (.bucketLimit chan) := wordless _
theorem Wordless.bucketPassed (chan : Fin 4) : Wordless.Statement (.bucketPassed chan) := wordless _
theorem Wordless.polishStealStep (facet : Fin 128) : Wordless.Statement (.polishStealStep facet) := wordless _
theorem Wordless.polishStepEnd (facet : Fin 128) (signatureOk : Bool) : Wordless.Statement (.polishStepEnd facet signatureOk) := wordless _
theorem Wordless.polishForcedSlot (core : Fin 32) : Wordless.Statement (.polishForcedSlot core) := wordless _
theorem Wordless.seqLockstepMismatch (pair : Fin 8) (cleanA : Bool) (cleanB : Bool) (recent : Bool) (executing : Option CmdRef) : Wordless.Statement (.seqLockstepMismatch pair cleanA cleanB recent executing) := wordless _
theorem Wordless.mcLockstepMismatch (recent : Bool) : Wordless.Statement (.mcLockstepMismatch recent) := wordless _
theorem Wordless.mcRestartDone : Wordless.Statement .mcRestartDone := wordless _
theorem Wordless.thermalSensorUpdate (readings : List (BitVec 10)) : Wordless.Statement (.thermalSensorUpdate readings) := wordless _
theorem Wordless.droopDetect (quadrants : BitVec 4) (pin : Bool) (needed : Nat) : Wordless.Statement (.droopDetect quadrants pin needed) := wordless _
theorem Wordless.droopRecoveryStep : Wordless.Statement .droopRecoveryStep := wordless _
theorem Wordless.throttleInput (n : BitVec 3) : Wordless.Statement (.throttleInput n) := wordless _
theorem Wordless.prefetchLoop (starved : BitVec 32) (twoFree : BitVec 32) (waited : BitVec 32) : Wordless.Statement (.prefetchLoop starved twoFree waited) := wordless _
theorem Wordless.inclusionRecordWrite : Wordless.Statement .inclusionRecordWrite := wordless _
theorem Wordless.wrapperInstruction (inst : WrapperInst) : Wordless.Statement (.wrapperInstruction inst) := wordless _
theorem Wordless.supplyRecovers : Wordless.Statement .supplyRecovers := wordless _

end Sys2Proof.Laws
end

