-- ==== Sys2Proof/Laws/State.lean ====
section
/-! SUPPORT. The fields of the state under each of its named updates, so that no proof unfolds a record update. -/

namespace Sys2Proof.Machine

variable (s : State)

/-! ### Replicated units -/

theorem vmod_get {α : Type} {n : Nat} (v : Vector α n) (i : Fin n) (f : α → α) (j : Nat) (h : j < n) :
    (vmod v i f)[j] = if i.val = j then f v[j] else v[j] := by
  by_cases e : i.val = j
  · subst e; simp [vmod]
  · simp [vmod, e]

@[simp] theorem vmod_get_same {α : Type} {n : Nat} (v : Vector α n) (i : Fin n) (f : α → α) :
    (vmod v i f)[i.val] = f v[i.val] := by
  simp [vmod]

theorem vset_get {α : Type} {n : Nat} (v : Vector α n) (i : Fin n) (x : α) (j : Nat) (h : j < n) :
    (vset v i x)[j] = if i.val = j then x else v[j] := by
  by_cases e : i.val = j
  · subst e; simp [vset]
  · simp [vset, e]

@[simp] theorem vset_get_same {α : Type} {n : Nat} (v : Vector α n) (i : Fin n) (x : α) : (vset v i x)[i.val] = x := by
  simp [vset]

/-! ### modCore -/

@[simp] theorem State.modCore_pending (c : Fin 32) (f : Core → Core) : (s.modCore c f).pending = s.pending := rfl
@[simp] theorem State.modCore_fresh (c : Fin 32) (f : Core → Core) : (s.modCore c f).fresh = s.fresh := rfl
@[simp] theorem State.modCore_mgmt (c : Fin 32) (f : Core → Core) : (s.modCore c f).mgmt = s.mgmt := rfl
@[simp] theorem State.modCore_log (c : Fin 32) (f : Core → Core) : (s.modCore c f).log = s.log := rfl
@[simp] theorem State.modCore_ext (c : Fin 32) (f : Core → Core) : (s.modCore c f).ext = s.ext := rfl
@[simp] theorem State.modCore_sched (c : Fin 32) (f : Core → Core) : (s.modCore c f).sched = s.sched := rfl
@[simp] theorem State.modCore_scan (c : Fin 32) (f : Core → Core) : (s.modCore c f).scan = s.scan := rfl
@[simp] theorem State.modCore_jobs (c : Fin 32) (f : Core → Core) : (s.modCore c f).jobs = s.jobs := rfl
@[simp] theorem State.modCore_clients (c : Fin 32) (f : Core → Core) : (s.modCore c f).clients = s.clients := rfl
@[simp] theorem State.modCore_cores (c : Fin 32) (f : Core → Core) : (s.modCore c f).cores = vmod s.cores c f := rfl
@[simp] theorem State.modCore_facets (c : Fin 32) (f : Core → Core) : (s.modCore c f).facets = s.facets := rfl
@[simp] theorem State.modCore_transit (c : Fin 32) (f : Core → Core) : (s.modCore c f).transit = s.transit := rfl
@[simp] theorem State.modCore_tilePorts (c : Fin 32) (f : Core → Core) : (s.modCore c f).tilePorts = s.tilePorts := rfl
@[simp] theorem State.modCore_ringPorts (c : Fin 32) (f : Core → Core) : (s.modCore c f).ringPorts = s.ringPorts := rfl
@[simp] theorem State.modCore_channels (c : Fin 32) (f : Core → Core) : (s.modCore c f).channels = s.channels := rfl
@[simp] theorem State.modCore_pairs (c : Fin 32) (f : Core → Core) : (s.modCore c f).pairs = s.pairs := rfl

/-! ### modFacet -/

@[simp] theorem State.modFacet_pending (g : Fin 128) (f : Facet → Facet) : (s.modFacet g f).pending = s.pending := rfl
@[simp] theorem State.modFacet_fresh (g : Fin 128) (f : Facet → Facet) : (s.modFacet g f).fresh = s.fresh := rfl
@[simp] theorem State.modFacet_mgmt (g : Fin 128) (f : Facet → Facet) : (s.modFacet g f).mgmt = s.mgmt := rfl
@[simp] theorem State.modFacet_log (g : Fin 128) (f : Facet → Facet) : (s.modFacet g f).log = s.log := rfl
@[simp] theorem State.modFacet_ext (g : Fin 128) (f : Facet → Facet) : (s.modFacet g f).ext = s.ext := rfl
@[simp] theorem State.modFacet_sched (g : Fin 128) (f : Facet → Facet) : (s.modFacet g f).sched = s.sched := rfl
@[simp] theorem State.modFacet_scan (g : Fin 128) (f : Facet → Facet) : (s.modFacet g f).scan = s.scan := rfl
@[simp] theorem State.modFacet_jobs (g : Fin 128) (f : Facet → Facet) : (s.modFacet g f).jobs = s.jobs := rfl
@[simp] theorem State.modFacet_clients (g : Fin 128) (f : Facet → Facet) : (s.modFacet g f).clients = s.clients := rfl
@[simp] theorem State.modFacet_cores (g : Fin 128) (f : Facet → Facet) : (s.modFacet g f).cores = s.cores := rfl
@[simp] theorem State.modFacet_facets (g : Fin 128) (f : Facet → Facet) : (s.modFacet g f).facets = vmod s.facets g f := rfl
@[simp] theorem State.modFacet_transit (g : Fin 128) (f : Facet → Facet) : (s.modFacet g f).transit = s.transit := rfl
@[simp] theorem State.modFacet_tilePorts (g : Fin 128) (f : Facet → Facet) : (s.modFacet g f).tilePorts = s.tilePorts := rfl
@[simp] theorem State.modFacet_ringPorts (g : Fin 128) (f : Facet → Facet) : (s.modFacet g f).ringPorts = s.ringPorts := rfl
@[simp] theorem State.modFacet_channels (g : Fin 128) (f : Facet → Facet) : (s.modFacet g f).channels = s.channels := rfl
@[simp] theorem State.modFacet_pairs (g : Fin 128) (f : Facet → Facet) : (s.modFacet g f).pairs = s.pairs := rfl

/-! ### modPort -/

@[simp] theorem State.modPort_pending (p : Fin 32) (f : TilePort → TilePort) : (s.modPort p f).pending = s.pending := rfl
@[simp] theorem State.modPort_fresh (p : Fin 32) (f : TilePort → TilePort) : (s.modPort p f).fresh = s.fresh := rfl
@[simp] theorem State.modPort_mgmt (p : Fin 32) (f : TilePort → TilePort) : (s.modPort p f).mgmt = s.mgmt := rfl
@[simp] theorem State.modPort_log (p : Fin 32) (f : TilePort → TilePort) : (s.modPort p f).log = s.log := rfl
@[simp] theorem State.modPort_ext (p : Fin 32) (f : TilePort → TilePort) : (s.modPort p f).ext = s.ext := rfl
@[simp] theorem State.modPort_sched (p : Fin 32) (f : TilePort → TilePort) : (s.modPort p f).sched = s.sched := rfl
@[simp] theorem State.modPort_scan (p : Fin 32) (f : TilePort → TilePort) : (s.modPort p f).scan = s.scan := rfl
@[simp] theorem State.modPort_jobs (p : Fin 32) (f : TilePort → TilePort) : (s.modPort p f).jobs = s.jobs := rfl
@[simp] theorem State.modPort_clients (p : Fin 32) (f : TilePort → TilePort) : (s.modPort p f).clients = s.clients := rfl
@[simp] theorem State.modPort_cores (p : Fin 32) (f : TilePort → TilePort) : (s.modPort p f).cores = s.cores := rfl
@[simp] theorem State.modPort_facets (p : Fin 32) (f : TilePort → TilePort) : (s.modPort p f).facets = s.facets := rfl
@[simp] theorem State.modPort_transit (p : Fin 32) (f : TilePort → TilePort) : (s.modPort p f).transit = s.transit := rfl
@[simp] theorem State.modPort_tilePorts (p : Fin 32) (f : TilePort → TilePort) : (s.modPort p f).tilePorts = vmod s.tilePorts p f := rfl
@[simp] theorem State.modPort_ringPorts (p : Fin 32) (f : TilePort → TilePort) : (s.modPort p f).ringPorts = s.ringPorts := rfl
@[simp] theorem State.modPort_channels (p : Fin 32) (f : TilePort → TilePort) : (s.modPort p f).channels = s.channels := rfl
@[simp] theorem State.modPort_pairs (p : Fin 32) (f : TilePort → TilePort) : (s.modPort p f).pairs = s.pairs := rfl

/-! ### modRing -/

@[simp] theorem State.modRing_pending (p : Fin 4) (f : RingPort → RingPort) : (s.modRing p f).pending = s.pending := rfl
@[simp] theorem State.modRing_fresh (p : Fin 4) (f : RingPort → RingPort) : (s.modRing p f).fresh = s.fresh := rfl
@[simp] theorem State.modRing_mgmt (p : Fin 4) (f : RingPort → RingPort) : (s.modRing p f).mgmt = s.mgmt := rfl
@[simp] theorem State.modRing_log (p : Fin 4) (f : RingPort → RingPort) : (s.modRing p f).log = s.log := rfl
@[simp] theorem State.modRing_ext (p : Fin 4) (f : RingPort → RingPort) : (s.modRing p f).ext = s.ext := rfl
@[simp] theorem State.modRing_sched (p : Fin 4) (f : RingPort → RingPort) : (s.modRing p f).sched = s.sched := rfl
@[simp] theorem State.modRing_scan (p : Fin 4) (f : RingPort → RingPort) : (s.modRing p f).scan = s.scan := rfl
@[simp] theorem State.modRing_jobs (p : Fin 4) (f : RingPort → RingPort) : (s.modRing p f).jobs = s.jobs := rfl
@[simp] theorem State.modRing_clients (p : Fin 4) (f : RingPort → RingPort) : (s.modRing p f).clients = s.clients := rfl
@[simp] theorem State.modRing_cores (p : Fin 4) (f : RingPort → RingPort) : (s.modRing p f).cores = s.cores := rfl
@[simp] theorem State.modRing_facets (p : Fin 4) (f : RingPort → RingPort) : (s.modRing p f).facets = s.facets := rfl
@[simp] theorem State.modRing_transit (p : Fin 4) (f : RingPort → RingPort) : (s.modRing p f).transit = s.transit := rfl
@[simp] theorem State.modRing_tilePorts (p : Fin 4) (f : RingPort → RingPort) : (s.modRing p f).tilePorts = s.tilePorts := rfl
@[simp] theorem State.modRing_ringPorts (p : Fin 4) (f : RingPort → RingPort) : (s.modRing p f).ringPorts = vmod s.ringPorts p f := rfl
@[simp] theorem State.modRing_channels (p : Fin 4) (f : RingPort → RingPort) : (s.modRing p f).channels = s.channels := rfl
@[simp] theorem State.modRing_pairs (p : Fin 4) (f : RingPort → RingPort) : (s.modRing p f).pairs = s.pairs := rfl

/-! ### modChan -/

@[simp] theorem State.modChan_pending (k : Fin 4) (f : Channel → Channel) : (s.modChan k f).pending = s.pending := rfl
@[simp] theorem State.modChan_fresh (k : Fin 4) (f : Channel → Channel) : (s.modChan k f).fresh = s.fresh := rfl
@[simp] theorem State.modChan_mgmt (k : Fin 4) (f : Channel → Channel) : (s.modChan k f).mgmt = s.mgmt := rfl
@[simp] theorem State.modChan_log (k : Fin 4) (f : Channel → Channel) : (s.modChan k f).log = s.log := rfl
@[simp] theorem State.modChan_ext (k : Fin 4) (f : Channel → Channel) : (s.modChan k f).ext = s.ext := rfl
@[simp] theorem State.modChan_sched (k : Fin 4) (f : Channel → Channel) : (s.modChan k f).sched = s.sched := rfl
@[simp] theorem State.modChan_scan (k : Fin 4) (f : Channel → Channel) : (s.modChan k f).scan = s.scan := rfl
@[simp] theorem State.modChan_jobs (k : Fin 4) (f : Channel → Channel) : (s.modChan k f).jobs = s.jobs := rfl
@[simp] theorem State.modChan_clients (k : Fin 4) (f : Channel → Channel) : (s.modChan k f).clients = s.clients := rfl
@[simp] theorem State.modChan_cores (k : Fin 4) (f : Channel → Channel) : (s.modChan k f).cores = s.cores := rfl
@[simp] theorem State.modChan_facets (k : Fin 4) (f : Channel → Channel) : (s.modChan k f).facets = s.facets := rfl
@[simp] theorem State.modChan_transit (k : Fin 4) (f : Channel → Channel) : (s.modChan k f).transit = s.transit := rfl
@[simp] theorem State.modChan_tilePorts (k : Fin 4) (f : Channel → Channel) : (s.modChan k f).tilePorts = s.tilePorts := rfl
@[simp] theorem State.modChan_ringPorts (k : Fin 4) (f : Channel → Channel) : (s.modChan k f).ringPorts = s.ringPorts := rfl
@[simp] theorem State.modChan_channels (k : Fin 4) (f : Channel → Channel) : (s.modChan k f).channels = vmod s.channels k f := rfl
@[simp] theorem State.modChan_pairs (k : Fin 4) (f : Channel → Channel) : (s.modChan k f).pairs = s.pairs := rfl

/-! ### modPair -/

@[simp] theorem State.modPair_pending (i : Fin 8) (f : Pair → Pair) : (s.modPair i f).pending = s.pending := rfl
@[simp] theorem State.modPair_fresh (i : Fin 8) (f : Pair → Pair) : (s.modPair i f).fresh = s.fresh := rfl
@[simp] theorem State.modPair_mgmt (i : Fin 8) (f : Pair → Pair) : (s.modPair i f).mgmt = s.mgmt := rfl
@[simp] theorem State.modPair_log (i : Fin 8) (f : Pair → Pair) : (s.modPair i f).log = s.log := rfl
@[simp] theorem State.modPair_ext (i : Fin 8) (f : Pair → Pair) : (s.modPair i f).ext = s.ext := rfl
@[simp] theorem State.modPair_sched (i : Fin 8) (f : Pair → Pair) : (s.modPair i f).sched = s.sched := rfl
@[simp] theorem State.modPair_scan (i : Fin 8) (f : Pair → Pair) : (s.modPair i f).scan = s.scan := rfl
@[simp] theorem State.modPair_jobs (i : Fin 8) (f : Pair → Pair) : (s.modPair i f).jobs = s.jobs := rfl
@[simp] theorem State.modPair_clients (i : Fin 8) (f : Pair → Pair) : (s.modPair i f).clients = s.clients := rfl
@[simp] theorem State.modPair_cores (i : Fin 8) (f : Pair → Pair) : (s.modPair i f).cores = s.cores := rfl
@[simp] theorem State.modPair_facets (i : Fin 8) (f : Pair → Pair) : (s.modPair i f).facets = s.facets := rfl
@[simp] theorem State.modPair_transit (i : Fin 8) (f : Pair → Pair) : (s.modPair i f).transit = s.transit := rfl
@[simp] theorem State.modPair_tilePorts (i : Fin 8) (f : Pair → Pair) : (s.modPair i f).tilePorts = s.tilePorts := rfl
@[simp] theorem State.modPair_ringPorts (i : Fin 8) (f : Pair → Pair) : (s.modPair i f).ringPorts = s.ringPorts := rfl
@[simp] theorem State.modPair_channels (i : Fin 8) (f : Pair → Pair) : (s.modPair i f).channels = s.channels := rfl
@[simp] theorem State.modPair_pairs (i : Fin 8) (f : Pair → Pair) : (s.modPair i f).pairs = vmod s.pairs i f := rfl

/-! ### modClient -/

@[simp] theorem State.modClient_pending (n : Fin 256) (f : Client → Client) : (s.modClient n f).pending = s.pending := rfl
@[simp] theorem State.modClient_fresh (n : Fin 256) (f : Client → Client) : (s.modClient n f).fresh = s.fresh := rfl
@[simp] theorem State.modClient_mgmt (n : Fin 256) (f : Client → Client) : (s.modClient n f).mgmt = s.mgmt := rfl
@[simp] theorem State.modClient_log (n : Fin 256) (f : Client → Client) : (s.modClient n f).log = s.log := rfl
@[simp] theorem State.modClient_ext (n : Fin 256) (f : Client → Client) : (s.modClient n f).ext = s.ext := rfl
@[simp] theorem State.modClient_sched (n : Fin 256) (f : Client → Client) : (s.modClient n f).sched = s.sched := rfl
@[simp] theorem State.modClient_scan (n : Fin 256) (f : Client → Client) : (s.modClient n f).scan = s.scan := rfl
@[simp] theorem State.modClient_jobs (n : Fin 256) (f : Client → Client) : (s.modClient n f).jobs = s.jobs := rfl
@[simp] theorem State.modClient_clients (n : Fin 256) (f : Client → Client) : (s.modClient n f).clients = vmod s.clients n f := rfl
@[simp] theorem State.modClient_cores (n : Fin 256) (f : Client → Client) : (s.modClient n f).cores = s.cores := rfl
@[simp] theorem State.modClient_facets (n : Fin 256) (f : Client → Client) : (s.modClient n f).facets = s.facets := rfl
@[simp] theorem State.modClient_transit (n : Fin 256) (f : Client → Client) : (s.modClient n f).transit = s.transit := rfl
@[simp] theorem State.modClient_tilePorts (n : Fin 256) (f : Client → Client) : (s.modClient n f).tilePorts = s.tilePorts := rfl
@[simp] theorem State.modClient_ringPorts (n : Fin 256) (f : Client → Client) : (s.modClient n f).ringPorts = s.ringPorts := rfl
@[simp] theorem State.modClient_channels (n : Fin 256) (f : Client → Client) : (s.modClient n f).channels = s.channels := rfl
@[simp] theorem State.modClient_pairs (n : Fin 256) (f : Client → Client) : (s.modClient n f).pairs = s.pairs := rfl

/-! ### modJob -/

@[simp] theorem State.modJob_pending (n : Fin 32) (f : Job → Job) : (s.modJob n f).pending = s.pending := rfl
@[simp] theorem State.modJob_fresh (n : Fin 32) (f : Job → Job) : (s.modJob n f).fresh = s.fresh := rfl
@[simp] theorem State.modJob_mgmt (n : Fin 32) (f : Job → Job) : (s.modJob n f).mgmt = s.mgmt := rfl
@[simp] theorem State.modJob_log (n : Fin 32) (f : Job → Job) : (s.modJob n f).log = s.log := rfl
@[simp] theorem State.modJob_ext (n : Fin 32) (f : Job → Job) : (s.modJob n f).ext = s.ext := rfl
@[simp] theorem State.modJob_sched (n : Fin 32) (f : Job → Job) : (s.modJob n f).sched = s.sched := rfl
@[simp] theorem State.modJob_scan (n : Fin 32) (f : Job → Job) : (s.modJob n f).scan = s.scan := rfl
@[simp] theorem State.modJob_jobs (n : Fin 32) (f : Job → Job) : (s.modJob n f).jobs = vmod s.jobs n (Option.map f) := rfl
@[simp] theorem State.modJob_clients (n : Fin 32) (f : Job → Job) : (s.modJob n f).clients = s.clients := rfl
@[simp] theorem State.modJob_cores (n : Fin 32) (f : Job → Job) : (s.modJob n f).cores = s.cores := rfl
@[simp] theorem State.modJob_facets (n : Fin 32) (f : Job → Job) : (s.modJob n f).facets = s.facets := rfl
@[simp] theorem State.modJob_transit (n : Fin 32) (f : Job → Job) : (s.modJob n f).transit = s.transit := rfl
@[simp] theorem State.modJob_tilePorts (n : Fin 32) (f : Job → Job) : (s.modJob n f).tilePorts = s.tilePorts := rfl
@[simp] theorem State.modJob_ringPorts (n : Fin 32) (f : Job → Job) : (s.modJob n f).ringPorts = s.ringPorts := rfl
@[simp] theorem State.modJob_channels (n : Fin 32) (f : Job → Job) : (s.modJob n f).channels = s.channels := rfl
@[simp] theorem State.modJob_pairs (n : Fin 32) (f : Job → Job) : (s.modJob n f).pairs = s.pairs := rfl

/-! ### modSwitch -/

@[simp] theorem State.modSwitch_pending (f : Switch → Switch) : (s.modSwitch f).pending = s.pending := rfl
@[simp] theorem State.modSwitch_fresh (f : Switch → Switch) : (s.modSwitch f).fresh = s.fresh := rfl
@[simp] theorem State.modSwitch_mgmt (f : Switch → Switch) : (s.modSwitch f).mgmt = s.mgmt := rfl
@[simp] theorem State.modSwitch_log (f : Switch → Switch) : (s.modSwitch f).log = s.log := rfl
@[simp] theorem State.modSwitch_ext (f : Switch → Switch) : (s.modSwitch f).ext = s.ext := rfl
@[simp] theorem State.modSwitch_scan (f : Switch → Switch) : (s.modSwitch f).scan = s.scan := rfl
@[simp] theorem State.modSwitch_jobs (f : Switch → Switch) : (s.modSwitch f).jobs = s.jobs := rfl
@[simp] theorem State.modSwitch_clients (f : Switch → Switch) : (s.modSwitch f).clients = s.clients := rfl
@[simp] theorem State.modSwitch_cores (f : Switch → Switch) : (s.modSwitch f).cores = s.cores := rfl
@[simp] theorem State.modSwitch_facets (f : Switch → Switch) : (s.modSwitch f).facets = s.facets := rfl
@[simp] theorem State.modSwitch_transit (f : Switch → Switch) : (s.modSwitch f).transit = s.transit := rfl
@[simp] theorem State.modSwitch_tilePorts (f : Switch → Switch) : (s.modSwitch f).tilePorts = s.tilePorts := rfl
@[simp] theorem State.modSwitch_ringPorts (f : Switch → Switch) : (s.modSwitch f).ringPorts = s.ringPorts := rfl
@[simp] theorem State.modSwitch_channels (f : Switch → Switch) : (s.modSwitch f).channels = s.channels := rfl
@[simp] theorem State.modSwitch_pairs (f : Switch → Switch) : (s.modSwitch f).pairs = s.pairs := rfl
@[simp] theorem State.modSwitch_sched (f : Switch → Switch) : (s.modSwitch f).sched = { s.sched with switch := s.sched.switch.map f } := rfl

/-! ### modFlight -/

@[simp] theorem State.modFlight_pending (n : Fin 32) (r : CmdRef) (g : InFlight → InFlight) : (s.modFlight n r g).pending = s.pending := rfl
@[simp] theorem State.modFlight_fresh (n : Fin 32) (r : CmdRef) (g : InFlight → InFlight) : (s.modFlight n r g).fresh = s.fresh := rfl
@[simp] theorem State.modFlight_mgmt (n : Fin 32) (r : CmdRef) (g : InFlight → InFlight) : (s.modFlight n r g).mgmt = s.mgmt := rfl
@[simp] theorem State.modFlight_log (n : Fin 32) (r : CmdRef) (g : InFlight → InFlight) : (s.modFlight n r g).log = s.log := rfl
@[simp] theorem State.modFlight_ext (n : Fin 32) (r : CmdRef) (g : InFlight → InFlight) : (s.modFlight n r g).ext = s.ext := rfl
@[simp] theorem State.modFlight_sched (n : Fin 32) (r : CmdRef) (g : InFlight → InFlight) : (s.modFlight n r g).sched = s.sched := rfl
@[simp] theorem State.modFlight_scan (n : Fin 32) (r : CmdRef) (g : InFlight → InFlight) : (s.modFlight n r g).scan = s.scan := rfl
@[simp] theorem State.modFlight_jobs (n : Fin 32) (r : CmdRef) (g : InFlight → InFlight) : (s.modFlight n r g).jobs = vmod s.jobs n (Option.map fun j => j.modFlight r g) := rfl
@[simp] theorem State.modFlight_clients (n : Fin 32) (r : CmdRef) (g : InFlight → InFlight) : (s.modFlight n r g).clients = s.clients := rfl
@[simp] theorem State.modFlight_cores (n : Fin 32) (r : CmdRef) (g : InFlight → InFlight) : (s.modFlight n r g).cores = s.cores := rfl
@[simp] theorem State.modFlight_facets (n : Fin 32) (r : CmdRef) (g : InFlight → InFlight) : (s.modFlight n r g).facets = s.facets := rfl
@[simp] theorem State.modFlight_transit (n : Fin 32) (r : CmdRef) (g : InFlight → InFlight) : (s.modFlight n r g).transit = s.transit := rfl
@[simp] theorem State.modFlight_tilePorts (n : Fin 32) (r : CmdRef) (g : InFlight → InFlight) : (s.modFlight n r g).tilePorts = s.tilePorts := rfl
@[simp] theorem State.modFlight_ringPorts (n : Fin 32) (r : CmdRef) (g : InFlight → InFlight) : (s.modFlight n r g).ringPorts = s.ringPorts := rfl
@[simp] theorem State.modFlight_channels (n : Fin 32) (r : CmdRef) (g : InFlight → InFlight) : (s.modFlight n r g).channels = s.channels := rfl
@[simp] theorem State.modFlight_pairs (n : Fin 32) (r : CmdRef) (g : InFlight → InFlight) : (s.modFlight n r g).pairs = s.pairs := rfl

/-! ### enter -/

@[simp] theorem State.enter_pending (r : Report) : (s.enter r).pending = s.pending := rfl
@[simp] theorem State.enter_fresh (r : Report) : (s.enter r).fresh = s.fresh := rfl
@[simp] theorem State.enter_mgmt (r : Report) : (s.enter r).mgmt = s.mgmt := rfl
@[simp] theorem State.enter_log (r : Report) : (s.enter r).log = s.log.enter r := rfl
@[simp] theorem State.enter_ext (r : Report) : (s.enter r).ext = s.ext := rfl
@[simp] theorem State.enter_sched (r : Report) : (s.enter r).sched = s.sched := rfl
@[simp] theorem State.enter_scan (r : Report) : (s.enter r).scan = s.scan := rfl
@[simp] theorem State.enter_jobs (r : Report) : (s.enter r).jobs = s.jobs := rfl
@[simp] theorem State.enter_clients (r : Report) : (s.enter r).clients = s.clients := rfl
@[simp] theorem State.enter_cores (r : Report) : (s.enter r).cores = s.cores := rfl
@[simp] theorem State.enter_facets (r : Report) : (s.enter r).facets = s.facets := rfl
@[simp] theorem State.enter_transit (r : Report) : (s.enter r).transit = s.transit := rfl
@[simp] theorem State.enter_tilePorts (r : Report) : (s.enter r).tilePorts = s.tilePorts := rfl
@[simp] theorem State.enter_ringPorts (r : Report) : (s.enter r).ringPorts = s.ringPorts := rfl
@[simp] theorem State.enter_channels (r : Report) : (s.enter r).channels = s.channels := rfl
@[simp] theorem State.enter_pairs (r : Report) : (s.enter r).pairs = s.pairs := rfl

/-! ### modBoot -/

@[simp] theorem State.modBoot_pending (f : Boot → Boot) : (s.modBoot f).pending = s.pending := rfl
@[simp] theorem State.modBoot_fresh (f : Boot → Boot) : (s.modBoot f).fresh = s.fresh := rfl
@[simp] theorem State.modBoot_pins (f : Boot → Boot) : (s.modBoot f).mgmt.pins = s.mgmt.pins := rfl
@[simp] theorem State.modBoot_boot (f : Boot → Boot) : (s.modBoot f).mgmt.boot = f s.mgmt.boot := rfl
@[simp] theorem State.modBoot_cause (f : Boot → Boot) : (s.modBoot f).mgmt.cause = s.mgmt.cause := rfl
@[simp] theorem State.modBoot_quiesce (f : Boot → Boot) : (s.modBoot f).mgmt.quiesce = s.mgmt.quiesce := rfl
@[simp] theorem State.modBoot_cut (f : Boot → Boot) : (s.modBoot f).mgmt.cut = s.mgmt.cut := rfl
@[simp] theorem State.modBoot_rwl (f : Boot → Boot) : (s.modBoot f).mgmt.rwl = s.mgmt.rwl := rfl
@[simp] theorem State.modBoot_fence (f : Boot → Boot) : (s.modBoot f).mgmt.fence = s.mgmt.fence := rfl
@[simp] theorem State.modBoot_ra (f : Boot → Boot) : (s.modBoot f).mgmt.ra = s.mgmt.ra := rfl
@[simp] theorem State.modBoot_irqStatus (f : Boot → Boot) : (s.modBoot f).mgmt.irqStatus = s.mgmt.irqStatus := rfl
@[simp] theorem State.modBoot_irqEnable (f : Boot → Boot) : (s.modBoot f).mgmt.irqEnable = s.mgmt.irqEnable := rfl
@[simp] theorem State.modBoot_submitBase (f : Boot → Boot) : (s.modBoot f).mgmt.submitBase = s.mgmt.submitBase := rfl
@[simp] theorem State.modBoot_polish (f : Boot → Boot) : (s.modBoot f).mgmt.polish = s.mgmt.polish := rfl
@[simp] theorem State.modBoot_bounds (f : Boot → Boot) : (s.modBoot f).mgmt.bounds = s.mgmt.bounds := rfl
@[simp] theorem State.modBoot_loops (f : Boot → Boot) : (s.modBoot f).mgmt.loops = s.mgmt.loops := rfl
@[simp] theorem State.modBoot_beat (f : Boot → Boot) : (s.modBoot f).mgmt.beat = s.mgmt.beat := rfl
@[simp] theorem State.modBoot_lead (f : Boot → Boot) : (s.modBoot f).mgmt.lead = s.mgmt.lead := rfl
@[simp] theorem State.modBoot_log (f : Boot → Boot) : (s.modBoot f).log = s.log := rfl
@[simp] theorem State.modBoot_ext (f : Boot → Boot) : (s.modBoot f).ext = s.ext := rfl
@[simp] theorem State.modBoot_sched (f : Boot → Boot) : (s.modBoot f).sched = s.sched := rfl
@[simp] theorem State.modBoot_scan (f : Boot → Boot) : (s.modBoot f).scan = s.scan := rfl
@[simp] theorem State.modBoot_jobs (f : Boot → Boot) : (s.modBoot f).jobs = s.jobs := rfl
@[simp] theorem State.modBoot_clients (f : Boot → Boot) : (s.modBoot f).clients = s.clients := rfl
@[simp] theorem State.modBoot_cores (f : Boot → Boot) : (s.modBoot f).cores = s.cores := rfl
@[simp] theorem State.modBoot_facets (f : Boot → Boot) : (s.modBoot f).facets = s.facets := rfl
@[simp] theorem State.modBoot_transit (f : Boot → Boot) : (s.modBoot f).transit = s.transit := rfl
@[simp] theorem State.modBoot_tilePorts (f : Boot → Boot) : (s.modBoot f).tilePorts = s.tilePorts := rfl
@[simp] theorem State.modBoot_ringPorts (f : Boot → Boot) : (s.modBoot f).ringPorts = s.ringPorts := rfl
@[simp] theorem State.modBoot_channels (f : Boot → Boot) : (s.modBoot f).channels = s.channels := rfl
@[simp] theorem State.modBoot_pairs (f : Boot → Boot) : (s.modBoot f).pairs = s.pairs := rfl

/-! ### modPins -/

@[simp] theorem State.modPins_pending (f : Pins → Pins) : (s.modPins f).pending = s.pending := rfl
@[simp] theorem State.modPins_fresh (f : Pins → Pins) : (s.modPins f).fresh = s.fresh := rfl
@[simp] theorem State.modPins_pins (f : Pins → Pins) : (s.modPins f).mgmt.pins = f s.mgmt.pins := rfl
@[simp] theorem State.modPins_boot (f : Pins → Pins) : (s.modPins f).mgmt.boot = s.mgmt.boot := rfl
@[simp] theorem State.modPins_cause (f : Pins → Pins) : (s.modPins f).mgmt.cause = s.mgmt.cause := rfl
@[simp] theorem State.modPins_quiesce (f : Pins → Pins) : (s.modPins f).mgmt.quiesce = s.mgmt.quiesce := rfl
@[simp] theorem State.modPins_cut (f : Pins → Pins) : (s.modPins f).mgmt.cut = s.mgmt.cut := rfl
@[simp] theorem State.modPins_rwl (f : Pins → Pins) : (s.modPins f).mgmt.rwl = s.mgmt.rwl := rfl
@[simp] theorem State.modPins_fence (f : Pins → Pins) : (s.modPins f).mgmt.fence = s.mgmt.fence := rfl
@[simp] theorem State.modPins_ra (f : Pins → Pins) : (s.modPins f).mgmt.ra = s.mgmt.ra := rfl
@[simp] theorem State.modPins_irqStatus (f : Pins → Pins) : (s.modPins f).mgmt.irqStatus = s.mgmt.irqStatus := rfl
@[simp] theorem State.modPins_irqEnable (f : Pins → Pins) : (s.modPins f).mgmt.irqEnable = s.mgmt.irqEnable := rfl
@[simp] theorem State.modPins_submitBase (f : Pins → Pins) : (s.modPins f).mgmt.submitBase = s.mgmt.submitBase := rfl
@[simp] theorem State.modPins_polish (f : Pins → Pins) : (s.modPins f).mgmt.polish = s.mgmt.polish := rfl
@[simp] theorem State.modPins_bounds (f : Pins → Pins) : (s.modPins f).mgmt.bounds = s.mgmt.bounds := rfl
@[simp] theorem State.modPins_loops (f : Pins → Pins) : (s.modPins f).mgmt.loops = s.mgmt.loops := rfl
@[simp] theorem State.modPins_beat (f : Pins → Pins) : (s.modPins f).mgmt.beat = s.mgmt.beat := rfl
@[simp] theorem State.modPins_lead (f : Pins → Pins) : (s.modPins f).mgmt.lead = s.mgmt.lead := rfl
@[simp] theorem State.modPins_log (f : Pins → Pins) : (s.modPins f).log = s.log := rfl
@[simp] theorem State.modPins_ext (f : Pins → Pins) : (s.modPins f).ext = s.ext := rfl
@[simp] theorem State.modPins_sched (f : Pins → Pins) : (s.modPins f).sched = s.sched := rfl
@[simp] theorem State.modPins_scan (f : Pins → Pins) : (s.modPins f).scan = s.scan := rfl
@[simp] theorem State.modPins_jobs (f : Pins → Pins) : (s.modPins f).jobs = s.jobs := rfl
@[simp] theorem State.modPins_clients (f : Pins → Pins) : (s.modPins f).clients = s.clients := rfl
@[simp] theorem State.modPins_cores (f : Pins → Pins) : (s.modPins f).cores = s.cores := rfl
@[simp] theorem State.modPins_facets (f : Pins → Pins) : (s.modPins f).facets = s.facets := rfl
@[simp] theorem State.modPins_transit (f : Pins → Pins) : (s.modPins f).transit = s.transit := rfl
@[simp] theorem State.modPins_tilePorts (f : Pins → Pins) : (s.modPins f).tilePorts = s.tilePorts := rfl
@[simp] theorem State.modPins_ringPorts (f : Pins → Pins) : (s.modPins f).ringPorts = s.ringPorts := rfl
@[simp] theorem State.modPins_channels (f : Pins → Pins) : (s.modPins f).channels = s.channels := rfl
@[simp] theorem State.modPins_pairs (f : Pins → Pins) : (s.modPins f).pairs = s.pairs := rfl

/-! ### modBeat -/

@[simp] theorem State.modBeat_pending (f : Beat → Beat) : (s.modBeat f).pending = s.pending := rfl
@[simp] theorem State.modBeat_fresh (f : Beat → Beat) : (s.modBeat f).fresh = s.fresh := rfl
@[simp] theorem State.modBeat_pins (f : Beat → Beat) : (s.modBeat f).mgmt.pins = s.mgmt.pins := rfl
@[simp] theorem State.modBeat_boot (f : Beat → Beat) : (s.modBeat f).mgmt.boot = s.mgmt.boot := rfl
@[simp] theorem State.modBeat_cause (f : Beat → Beat) : (s.modBeat f).mgmt.cause = s.mgmt.cause := rfl
@[simp] theorem State.modBeat_quiesce (f : Beat → Beat) : (s.modBeat f).mgmt.quiesce = s.mgmt.quiesce := rfl
@[simp] theorem State.modBeat_cut (f : Beat → Beat) : (s.modBeat f).mgmt.cut = s.mgmt.cut := rfl
@[simp] theorem State.modBeat_rwl (f : Beat → Beat) : (s.modBeat f).mgmt.rwl = s.mgmt.rwl := rfl
@[simp] theorem State.modBeat_fence (f : Beat → Beat) : (s.modBeat f).mgmt.fence = s.mgmt.fence := rfl
@[simp] theorem State.modBeat_ra (f : Beat → Beat) : (s.modBeat f).mgmt.ra = s.mgmt.ra := rfl
@[simp] theorem State.modBeat_irqStatus (f : Beat → Beat) : (s.modBeat f).mgmt.irqStatus = s.mgmt.irqStatus := rfl
@[simp] theorem State.modBeat_irqEnable (f : Beat → Beat) : (s.modBeat f).mgmt.irqEnable = s.mgmt.irqEnable := rfl
@[simp] theorem State.modBeat_submitBase (f : Beat → Beat) : (s.modBeat f).mgmt.submitBase = s.mgmt.submitBase := rfl
@[simp] theorem State.modBeat_polish (f : Beat → Beat) : (s.modBeat f).mgmt.polish = s.mgmt.polish := rfl
@[simp] theorem State.modBeat_bounds (f : Beat → Beat) : (s.modBeat f).mgmt.bounds = s.mgmt.bounds := rfl
@[simp] theorem State.modBeat_loops (f : Beat → Beat) : (s.modBeat f).mgmt.loops = s.mgmt.loops := rfl
@[simp] theorem State.modBeat_beat (f : Beat → Beat) : (s.modBeat f).mgmt.beat = f s.mgmt.beat := rfl
@[simp] theorem State.modBeat_lead (f : Beat → Beat) : (s.modBeat f).mgmt.lead = s.mgmt.lead := rfl
@[simp] theorem State.modBeat_log (f : Beat → Beat) : (s.modBeat f).log = s.log := rfl
@[simp] theorem State.modBeat_ext (f : Beat → Beat) : (s.modBeat f).ext = s.ext := rfl
@[simp] theorem State.modBeat_sched (f : Beat → Beat) : (s.modBeat f).sched = s.sched := rfl
@[simp] theorem State.modBeat_scan (f : Beat → Beat) : (s.modBeat f).scan = s.scan := rfl
@[simp] theorem State.modBeat_jobs (f : Beat → Beat) : (s.modBeat f).jobs = s.jobs := rfl
@[simp] theorem State.modBeat_clients (f : Beat → Beat) : (s.modBeat f).clients = s.clients := rfl
@[simp] theorem State.modBeat_cores (f : Beat → Beat) : (s.modBeat f).cores = s.cores := rfl
@[simp] theorem State.modBeat_facets (f : Beat → Beat) : (s.modBeat f).facets = s.facets := rfl
@[simp] theorem State.modBeat_transit (f : Beat → Beat) : (s.modBeat f).transit = s.transit := rfl
@[simp] theorem State.modBeat_tilePorts (f : Beat → Beat) : (s.modBeat f).tilePorts = s.tilePorts := rfl
@[simp] theorem State.modBeat_ringPorts (f : Beat → Beat) : (s.modBeat f).ringPorts = s.ringPorts := rfl
@[simp] theorem State.modBeat_channels (f : Beat → Beat) : (s.modBeat f).channels = s.channels := rfl
@[simp] theorem State.modBeat_pairs (f : Beat → Beat) : (s.modBeat f).pairs = s.pairs := rfl

/-! ### modRwl -/

@[simp] theorem State.modRwl_pending (f : Rwl → Rwl) : (s.modRwl f).pending = s.pending := rfl
@[simp] theorem State.modRwl_fresh (f : Rwl → Rwl) : (s.modRwl f).fresh = s.fresh := rfl
@[simp] theorem State.modRwl_pins (f : Rwl → Rwl) : (s.modRwl f).mgmt.pins = s.mgmt.pins := rfl
@[simp] theorem State.modRwl_boot (f : Rwl → Rwl) : (s.modRwl f).mgmt.boot = s.mgmt.boot := rfl
@[simp] theorem State.modRwl_cause (f : Rwl → Rwl) : (s.modRwl f).mgmt.cause = s.mgmt.cause := rfl
@[simp] theorem State.modRwl_quiesce (f : Rwl → Rwl) : (s.modRwl f).mgmt.quiesce = s.mgmt.quiesce := rfl
@[simp] theorem State.modRwl_cut (f : Rwl → Rwl) : (s.modRwl f).mgmt.cut = s.mgmt.cut := rfl
@[simp] theorem State.modRwl_rwl (f : Rwl → Rwl) : (s.modRwl f).mgmt.rwl = f s.mgmt.rwl := rfl
@[simp] theorem State.modRwl_fence (f : Rwl → Rwl) : (s.modRwl f).mgmt.fence = s.mgmt.fence := rfl
@[simp] theorem State.modRwl_ra (f : Rwl → Rwl) : (s.modRwl f).mgmt.ra = s.mgmt.ra := rfl
@[simp] theorem State.modRwl_irqStatus (f : Rwl → Rwl) : (s.modRwl f).mgmt.irqStatus = s.mgmt.irqStatus := rfl
@[simp] theorem State.modRwl_irqEnable (f : Rwl → Rwl) : (s.modRwl f).mgmt.irqEnable = s.mgmt.irqEnable := rfl
@[simp] theorem State.modRwl_submitBase (f : Rwl → Rwl) : (s.modRwl f).mgmt.submitBase = s.mgmt.submitBase := rfl
@[simp] theorem State.modRwl_polish (f : Rwl → Rwl) : (s.modRwl f).mgmt.polish = s.mgmt.polish := rfl
@[simp] theorem State.modRwl_bounds (f : Rwl → Rwl) : (s.modRwl f).mgmt.bounds = s.mgmt.bounds := rfl
@[simp] theorem State.modRwl_loops (f : Rwl → Rwl) : (s.modRwl f).mgmt.loops = s.mgmt.loops := rfl
@[simp] theorem State.modRwl_beat (f : Rwl → Rwl) : (s.modRwl f).mgmt.beat = s.mgmt.beat := rfl
@[simp] theorem State.modRwl_lead (f : Rwl → Rwl) : (s.modRwl f).mgmt.lead = s.mgmt.lead := rfl
@[simp] theorem State.modRwl_log (f : Rwl → Rwl) : (s.modRwl f).log = s.log := rfl
@[simp] theorem State.modRwl_ext (f : Rwl → Rwl) : (s.modRwl f).ext = s.ext := rfl
@[simp] theorem State.modRwl_sched (f : Rwl → Rwl) : (s.modRwl f).sched = s.sched := rfl
@[simp] theorem State.modRwl_scan (f : Rwl → Rwl) : (s.modRwl f).scan = s.scan := rfl
@[simp] theorem State.modRwl_jobs (f : Rwl → Rwl) : (s.modRwl f).jobs = s.jobs := rfl
@[simp] theorem State.modRwl_clients (f : Rwl → Rwl) : (s.modRwl f).clients = s.clients := rfl
@[simp] theorem State.modRwl_cores (f : Rwl → Rwl) : (s.modRwl f).cores = s.cores := rfl
@[simp] theorem State.modRwl_facets (f : Rwl → Rwl) : (s.modRwl f).facets = s.facets := rfl
@[simp] theorem State.modRwl_transit (f : Rwl → Rwl) : (s.modRwl f).transit = s.transit := rfl
@[simp] theorem State.modRwl_tilePorts (f : Rwl → Rwl) : (s.modRwl f).tilePorts = s.tilePorts := rfl
@[simp] theorem State.modRwl_ringPorts (f : Rwl → Rwl) : (s.modRwl f).ringPorts = s.ringPorts := rfl
@[simp] theorem State.modRwl_channels (f : Rwl → Rwl) : (s.modRwl f).channels = s.channels := rfl
@[simp] theorem State.modRwl_pairs (f : Rwl → Rwl) : (s.modRwl f).pairs = s.pairs := rfl

/-! ### modPolish -/

@[simp] theorem State.modPolish_pending (f : Polish → Polish) : (s.modPolish f).pending = s.pending := rfl
@[simp] theorem State.modPolish_fresh (f : Polish → Polish) : (s.modPolish f).fresh = s.fresh := rfl
@[simp] theorem State.modPolish_pins (f : Polish → Polish) : (s.modPolish f).mgmt.pins = s.mgmt.pins := rfl
@[simp] theorem State.modPolish_boot (f : Polish → Polish) : (s.modPolish f).mgmt.boot = s.mgmt.boot := rfl
@[simp] theorem State.modPolish_cause (f : Polish → Polish) : (s.modPolish f).mgmt.cause = s.mgmt.cause := rfl
@[simp] theorem State.modPolish_quiesce (f : Polish → Polish) : (s.modPolish f).mgmt.quiesce = s.mgmt.quiesce := rfl
@[simp] theorem State.modPolish_cut (f : Polish → Polish) : (s.modPolish f).mgmt.cut = s.mgmt.cut := rfl
@[simp] theorem State.modPolish_rwl (f : Polish → Polish) : (s.modPolish f).mgmt.rwl = s.mgmt.rwl := rfl
@[simp] theorem State.modPolish_fence (f : Polish → Polish) : (s.modPolish f).mgmt.fence = s.mgmt.fence := rfl
@[simp] theorem State.modPolish_ra (f : Polish → Polish) : (s.modPolish f).mgmt.ra = s.mgmt.ra := rfl
@[simp] theorem State.modPolish_irqStatus (f : Polish → Polish) : (s.modPolish f).mgmt.irqStatus = s.mgmt.irqStatus := rfl
@[simp] theorem State.modPolish_irqEnable (f : Polish → Polish) : (s.modPolish f).mgmt.irqEnable = s.mgmt.irqEnable := rfl
@[simp] theorem State.modPolish_submitBase (f : Polish → Polish) : (s.modPolish f).mgmt.submitBase = s.mgmt.submitBase := rfl
@[simp] theorem State.modPolish_polish (f : Polish → Polish) : (s.modPolish f).mgmt.polish = f s.mgmt.polish := rfl
@[simp] theorem State.modPolish_bounds (f : Polish → Polish) : (s.modPolish f).mgmt.bounds = s.mgmt.bounds := rfl
@[simp] theorem State.modPolish_loops (f : Polish → Polish) : (s.modPolish f).mgmt.loops = s.mgmt.loops := rfl
@[simp] theorem State.modPolish_beat (f : Polish → Polish) : (s.modPolish f).mgmt.beat = s.mgmt.beat := rfl
@[simp] theorem State.modPolish_lead (f : Polish → Polish) : (s.modPolish f).mgmt.lead = s.mgmt.lead := rfl
@[simp] theorem State.modPolish_log (f : Polish → Polish) : (s.modPolish f).log = s.log := rfl
@[simp] theorem State.modPolish_ext (f : Polish → Polish) : (s.modPolish f).ext = s.ext := rfl
@[simp] theorem State.modPolish_sched (f : Polish → Polish) : (s.modPolish f).sched = s.sched := rfl
@[simp] theorem State.modPolish_scan (f : Polish → Polish) : (s.modPolish f).scan = s.scan := rfl
@[simp] theorem State.modPolish_jobs (f : Polish → Polish) : (s.modPolish f).jobs = s.jobs := rfl
@[simp] theorem State.modPolish_clients (f : Polish → Polish) : (s.modPolish f).clients = s.clients := rfl
@[simp] theorem State.modPolish_cores (f : Polish → Polish) : (s.modPolish f).cores = s.cores := rfl
@[simp] theorem State.modPolish_facets (f : Polish → Polish) : (s.modPolish f).facets = s.facets := rfl
@[simp] theorem State.modPolish_transit (f : Polish → Polish) : (s.modPolish f).transit = s.transit := rfl
@[simp] theorem State.modPolish_tilePorts (f : Polish → Polish) : (s.modPolish f).tilePorts = s.tilePorts := rfl
@[simp] theorem State.modPolish_ringPorts (f : Polish → Polish) : (s.modPolish f).ringPorts = s.ringPorts := rfl
@[simp] theorem State.modPolish_channels (f : Polish → Polish) : (s.modPolish f).channels = s.channels := rfl
@[simp] theorem State.modPolish_pairs (f : Polish → Polish) : (s.modPolish f).pairs = s.pairs := rfl

/-! ### modLoops -/

@[simp] theorem State.modLoops_pending (f : Loops → Loops) : (s.modLoops f).pending = s.pending := rfl
@[simp] theorem State.modLoops_fresh (f : Loops → Loops) : (s.modLoops f).fresh = s.fresh := rfl
@[simp] theorem State.modLoops_pins (f : Loops → Loops) : (s.modLoops f).mgmt.pins = s.mgmt.pins := rfl
@[simp] theorem State.modLoops_boot (f : Loops → Loops) : (s.modLoops f).mgmt.boot = s.mgmt.boot := rfl
@[simp] theorem State.modLoops_cause (f : Loops → Loops) : (s.modLoops f).mgmt.cause = s.mgmt.cause := rfl
@[simp] theorem State.modLoops_quiesce (f : Loops → Loops) : (s.modLoops f).mgmt.quiesce = s.mgmt.quiesce := rfl
@[simp] theorem State.modLoops_cut (f : Loops → Loops) : (s.modLoops f).mgmt.cut = s.mgmt.cut := rfl
@[simp] theorem State.modLoops_rwl (f : Loops → Loops) : (s.modLoops f).mgmt.rwl = s.mgmt.rwl := rfl
@[simp] theorem State.modLoops_fence (f : Loops → Loops) : (s.modLoops f).mgmt.fence = s.mgmt.fence := rfl
@[simp] theorem State.modLoops_ra (f : Loops → Loops) : (s.modLoops f).mgmt.ra = s.mgmt.ra := rfl
@[simp] theorem State.modLoops_irqStatus (f : Loops → Loops) : (s.modLoops f).mgmt.irqStatus = s.mgmt.irqStatus := rfl
@[simp] theorem State.modLoops_irqEnable (f : Loops → Loops) : (s.modLoops f).mgmt.irqEnable = s.mgmt.irqEnable := rfl
@[simp] theorem State.modLoops_submitBase (f : Loops → Loops) : (s.modLoops f).mgmt.submitBase = s.mgmt.submitBase := rfl
@[simp] theorem State.modLoops_polish (f : Loops → Loops) : (s.modLoops f).mgmt.polish = s.mgmt.polish := rfl
@[simp] theorem State.modLoops_bounds (f : Loops → Loops) : (s.modLoops f).mgmt.bounds = s.mgmt.bounds := rfl
@[simp] theorem State.modLoops_loops (f : Loops → Loops) : (s.modLoops f).mgmt.loops = f s.mgmt.loops := rfl
@[simp] theorem State.modLoops_beat (f : Loops → Loops) : (s.modLoops f).mgmt.beat = s.mgmt.beat := rfl
@[simp] theorem State.modLoops_lead (f : Loops → Loops) : (s.modLoops f).mgmt.lead = s.mgmt.lead := rfl
@[simp] theorem State.modLoops_log (f : Loops → Loops) : (s.modLoops f).log = s.log := rfl
@[simp] theorem State.modLoops_ext (f : Loops → Loops) : (s.modLoops f).ext = s.ext := rfl
@[simp] theorem State.modLoops_sched (f : Loops → Loops) : (s.modLoops f).sched = s.sched := rfl
@[simp] theorem State.modLoops_scan (f : Loops → Loops) : (s.modLoops f).scan = s.scan := rfl
@[simp] theorem State.modLoops_jobs (f : Loops → Loops) : (s.modLoops f).jobs = s.jobs := rfl
@[simp] theorem State.modLoops_clients (f : Loops → Loops) : (s.modLoops f).clients = s.clients := rfl
@[simp] theorem State.modLoops_cores (f : Loops → Loops) : (s.modLoops f).cores = s.cores := rfl
@[simp] theorem State.modLoops_facets (f : Loops → Loops) : (s.modLoops f).facets = s.facets := rfl
@[simp] theorem State.modLoops_transit (f : Loops → Loops) : (s.modLoops f).transit = s.transit := rfl
@[simp] theorem State.modLoops_tilePorts (f : Loops → Loops) : (s.modLoops f).tilePorts = s.tilePorts := rfl
@[simp] theorem State.modLoops_ringPorts (f : Loops → Loops) : (s.modLoops f).ringPorts = s.ringPorts := rfl
@[simp] theorem State.modLoops_channels (f : Loops → Loops) : (s.modLoops f).channels = s.channels := rfl
@[simp] theorem State.modLoops_pairs (f : Loops → Loops) : (s.modLoops f).pairs = s.pairs := rfl

/-! ### setCause -/

@[simp] theorem State.setCause_pending (f : Cause → Cause) : (s.setCause f).pending = s.pending := rfl
@[simp] theorem State.setCause_fresh (f : Cause → Cause) : (s.setCause f).fresh = s.fresh := rfl
@[simp] theorem State.setCause_pins (f : Cause → Cause) : (s.setCause f).mgmt.pins = s.mgmt.pins := rfl
@[simp] theorem State.setCause_boot (f : Cause → Cause) : (s.setCause f).mgmt.boot = s.mgmt.boot := rfl
@[simp] theorem State.setCause_cause (f : Cause → Cause) : (s.setCause f).mgmt.cause = f s.mgmt.cause := rfl
@[simp] theorem State.setCause_quiesce (f : Cause → Cause) : (s.setCause f).mgmt.quiesce = s.mgmt.quiesce := rfl
@[simp] theorem State.setCause_cut (f : Cause → Cause) : (s.setCause f).mgmt.cut = s.mgmt.cut := rfl
@[simp] theorem State.setCause_rwl (f : Cause → Cause) : (s.setCause f).mgmt.rwl = s.mgmt.rwl := rfl
@[simp] theorem State.setCause_fence (f : Cause → Cause) : (s.setCause f).mgmt.fence = s.mgmt.fence := rfl
@[simp] theorem State.setCause_ra (f : Cause → Cause) : (s.setCause f).mgmt.ra = s.mgmt.ra := rfl
@[simp] theorem State.setCause_irqStatus (f : Cause → Cause) : (s.setCause f).mgmt.irqStatus = s.mgmt.irqStatus := rfl
@[simp] theorem State.setCause_irqEnable (f : Cause → Cause) : (s.setCause f).mgmt.irqEnable = s.mgmt.irqEnable := rfl
@[simp] theorem State.setCause_submitBase (f : Cause → Cause) : (s.setCause f).mgmt.submitBase = s.mgmt.submitBase := rfl
@[simp] theorem State.setCause_polish (f : Cause → Cause) : (s.setCause f).mgmt.polish = s.mgmt.polish := rfl
@[simp] theorem State.setCause_bounds (f : Cause → Cause) : (s.setCause f).mgmt.bounds = s.mgmt.bounds := rfl
@[simp] theorem State.setCause_loops (f : Cause → Cause) : (s.setCause f).mgmt.loops = s.mgmt.loops := rfl
@[simp] theorem State.setCause_beat (f : Cause → Cause) : (s.setCause f).mgmt.beat = s.mgmt.beat := rfl
@[simp] theorem State.setCause_lead (f : Cause → Cause) : (s.setCause f).mgmt.lead = s.mgmt.lead := rfl
@[simp] theorem State.setCause_log (f : Cause → Cause) : (s.setCause f).log = s.log := rfl
@[simp] theorem State.setCause_ext (f : Cause → Cause) : (s.setCause f).ext = s.ext := rfl
@[simp] theorem State.setCause_sched (f : Cause → Cause) : (s.setCause f).sched = s.sched := rfl
@[simp] theorem State.setCause_scan (f : Cause → Cause) : (s.setCause f).scan = s.scan := rfl
@[simp] theorem State.setCause_jobs (f : Cause → Cause) : (s.setCause f).jobs = s.jobs := rfl
@[simp] theorem State.setCause_clients (f : Cause → Cause) : (s.setCause f).clients = s.clients := rfl
@[simp] theorem State.setCause_cores (f : Cause → Cause) : (s.setCause f).cores = s.cores := rfl
@[simp] theorem State.setCause_facets (f : Cause → Cause) : (s.setCause f).facets = s.facets := rfl
@[simp] theorem State.setCause_transit (f : Cause → Cause) : (s.setCause f).transit = s.transit := rfl
@[simp] theorem State.setCause_tilePorts (f : Cause → Cause) : (s.setCause f).tilePorts = s.tilePorts := rfl
@[simp] theorem State.setCause_ringPorts (f : Cause → Cause) : (s.setCause f).ringPorts = s.ringPorts := rfl
@[simp] theorem State.setCause_channels (f : Cause → Cause) : (s.setCause f).channels = s.channels := rfl
@[simp] theorem State.setCause_pairs (f : Cause → Cause) : (s.setCause f).pairs = s.pairs := rfl

/-! ### raiseIrq -/

@[simp] theorem State.raiseIrq_pending (b : Nat) : (s.raiseIrq b).pending = s.pending := rfl
@[simp] theorem State.raiseIrq_fresh (b : Nat) : (s.raiseIrq b).fresh = s.fresh := rfl
@[simp] theorem State.raiseIrq_pins (b : Nat) : (s.raiseIrq b).mgmt.pins = s.mgmt.pins := rfl
@[simp] theorem State.raiseIrq_boot (b : Nat) : (s.raiseIrq b).mgmt.boot = s.mgmt.boot := rfl
@[simp] theorem State.raiseIrq_cause (b : Nat) : (s.raiseIrq b).mgmt.cause = s.mgmt.cause := rfl
@[simp] theorem State.raiseIrq_quiesce (b : Nat) : (s.raiseIrq b).mgmt.quiesce = s.mgmt.quiesce := rfl
@[simp] theorem State.raiseIrq_cut (b : Nat) : (s.raiseIrq b).mgmt.cut = s.mgmt.cut := rfl
@[simp] theorem State.raiseIrq_rwl (b : Nat) : (s.raiseIrq b).mgmt.rwl = s.mgmt.rwl := rfl
@[simp] theorem State.raiseIrq_fence (b : Nat) : (s.raiseIrq b).mgmt.fence = s.mgmt.fence := rfl
@[simp] theorem State.raiseIrq_ra (b : Nat) : (s.raiseIrq b).mgmt.ra = s.mgmt.ra := rfl
@[simp] theorem State.raiseIrq_irqStatus (b : Nat) : (s.raiseIrq b).mgmt.irqStatus = s.mgmt.irqStatus ||| (1 <<< b) := rfl
@[simp] theorem State.raiseIrq_irqEnable (b : Nat) : (s.raiseIrq b).mgmt.irqEnable = s.mgmt.irqEnable := rfl
@[simp] theorem State.raiseIrq_submitBase (b : Nat) : (s.raiseIrq b).mgmt.submitBase = s.mgmt.submitBase := rfl
@[simp] theorem State.raiseIrq_polish (b : Nat) : (s.raiseIrq b).mgmt.polish = s.mgmt.polish := rfl
@[simp] theorem State.raiseIrq_bounds (b : Nat) : (s.raiseIrq b).mgmt.bounds = s.mgmt.bounds := rfl
@[simp] theorem State.raiseIrq_loops (b : Nat) : (s.raiseIrq b).mgmt.loops = s.mgmt.loops := rfl
@[simp] theorem State.raiseIrq_beat (b : Nat) : (s.raiseIrq b).mgmt.beat = s.mgmt.beat := rfl
@[simp] theorem State.raiseIrq_lead (b : Nat) : (s.raiseIrq b).mgmt.lead = s.mgmt.lead := rfl
@[simp] theorem State.raiseIrq_log (b : Nat) : (s.raiseIrq b).log = s.log := rfl
@[simp] theorem State.raiseIrq_ext (b : Nat) : (s.raiseIrq b).ext = s.ext := rfl
@[simp] theorem State.raiseIrq_sched (b : Nat) : (s.raiseIrq b).sched = s.sched := rfl
@[simp] theorem State.raiseIrq_scan (b : Nat) : (s.raiseIrq b).scan = s.scan := rfl
@[simp] theorem State.raiseIrq_jobs (b : Nat) : (s.raiseIrq b).jobs = s.jobs := rfl
@[simp] theorem State.raiseIrq_clients (b : Nat) : (s.raiseIrq b).clients = s.clients := rfl
@[simp] theorem State.raiseIrq_cores (b : Nat) : (s.raiseIrq b).cores = s.cores := rfl
@[simp] theorem State.raiseIrq_facets (b : Nat) : (s.raiseIrq b).facets = s.facets := rfl
@[simp] theorem State.raiseIrq_transit (b : Nat) : (s.raiseIrq b).transit = s.transit := rfl
@[simp] theorem State.raiseIrq_tilePorts (b : Nat) : (s.raiseIrq b).tilePorts = s.tilePorts := rfl
@[simp] theorem State.raiseIrq_ringPorts (b : Nat) : (s.raiseIrq b).ringPorts = s.ringPorts := rfl
@[simp] theorem State.raiseIrq_channels (b : Nat) : (s.raiseIrq b).channels = s.channels := rfl
@[simp] theorem State.raiseIrq_pairs (b : Nat) : (s.raiseIrq b).pairs = s.pairs := rfl

/-! ### Entering a report -/

@[simp] theorem Log.enter_records (l : Log) (r : Report) : (l.enter r).records = l.records := by unfold Log.enter; split <;> split <;> rfl
@[simp] theorem Log.enter_count (l : Log) (r : Report) : (l.enter r).count = l.count := by unfold Log.enter; split <;> split <;> rfl
@[simp] theorem Log.enter_sel (l : Log) (r : Report) : (l.enter r).sel = l.sel := by unfold Log.enter; split <;> split <;> rfl
@[simp] theorem Log.enter_selHeld (l : Log) (r : Report) : (l.enter r).selHeld = l.selHeld := by unfold Log.enter; split <;> split <;> rfl
@[simp] theorem Log.enter_data (l : Log) (r : Report) : (l.enter r).data = l.data := by unfold Log.enter; split <;> split <;> rfl
@[simp] theorem Log.enter_mcRestarts (l : Log) (r : Report) : (l.enter r).mcRestarts = l.mcRestarts := by
  unfold Log.enter; split <;> split <;> rfl

end Sys2Proof.Machine
end

