-- ==== Sys2Proof/Laws/Steady.lean ====
section
/-! SUPPORT. The work of jobs, rings and ports leaves alone what `State.steady` gathers: one lemma for each of its functions. -/

namespace Sys2Proof.Machine

/-- Only the queue, the management and the log bear on what is steady. -/
@[simp] theorem steady_mk (s : State) (fr : Nat) (e : ExtMem) (sc : Sched) (sn : Scan) (j : Vector (Option Job) 32) (cl : Vector Client 256)
    (co : Vector Core 32) (fa : Vector Facet 128) (tr : List Transit) (tp : Vector TilePort 32) (rp : Vector RingPort 4)
    (ch : Vector Channel 4) (pa : Vector Pair 8) :
    (State.mk s.pending fr s.mgmt s.log e sc sn j cl co fa tr tp rp ch pa).steady = s.steady := rfl

/-- Of the management, causes, quiescing, fences, interrupts raised and the lead pair are not steady. -/
@[simp] theorem steady_mk_mgmt (s : State) (fr : Nat) (ca : Cause) (q : Option Quiesce) (fe : BitVec 128) (ir : Word) (le : Lead)
    (e : ExtMem) (sc : Sched) (sn : Scan) (j : Vector (Option Job) 32) (cl : Vector Client 256) (co : Vector Core 32) (fa : Vector Facet 128)
    (tr : List Transit) (tp : Vector TilePort 32) (rp : Vector RingPort 4) (ch : Vector Channel 4) (pa : Vector Pair 8) :
    (State.mk s.pending fr (Mgmt.mk s.mgmt.pins s.mgmt.boot ca q s.mgmt.cut s.mgmt.rwl fe s.mgmt.ra ir s.mgmt.irqEnable s.mgmt.submitBase
      s.mgmt.polish s.mgmt.bounds s.mgmt.loops s.mgmt.beat le) s.log e sc sn j cl co fa tr tp rp ch pa).steady = s.steady := rfl

@[simp] theorem foldl_steady {β : Type} (f : State → β → State) (h : ∀ s b, (f s b).steady = s.steady) (l : List β) (s : State) :
    (l.foldl f s).steady = s.steady := by
  induction l generalizing s with
  | nil => rfl
  | cons b r ih => exact (ih _).trans (h s b)

@[simp] theorem foldl_steady_fst {β γ : Type} (f : State × γ → β → State × γ) (h : ∀ x b, (f x b).1.steady = x.1.steady) (l : List β)
    (x : State × γ) : (l.foldl f x).1.steady = x.1.steady := by
  induction l generalizing x with
  | nil => rfl
  | cons b r ih => exact (ih _).trans (h x b)

@[simp] theorem State.modCore_steady (s : State) (c : Fin 32) (f : Core → Core) : (State.modCore s c f).steady = s.steady := by rfl

@[simp] theorem State.modFacet_steady (s : State) (g : Fin 128) (f : Facet → Facet) : (State.modFacet s g f).steady = s.steady := by rfl

@[simp] theorem State.modPort_steady (s : State) (p : Fin 32) (f : TilePort → TilePort) : (State.modPort s p f).steady = s.steady := by rfl

@[simp] theorem State.modRing_steady (s : State) (p : Fin 4) (f : RingPort → RingPort) : (State.modRing s p f).steady = s.steady := by rfl

@[simp] theorem State.modChan_steady (s : State) (k : Fin 4) (f : Channel → Channel) : (State.modChan s k f).steady = s.steady := by rfl

@[simp] theorem State.modPair_steady (s : State) (i : Fin 8) (f : Pair → Pair) : (State.modPair s i f).steady = s.steady := by rfl

@[simp] theorem State.modClient_steady (s : State) (n : Fin 256) (f : Client → Client) : (State.modClient s n f).steady = s.steady := by rfl

@[simp] theorem State.modJob_steady (s : State) (n : Fin 32) (f : Job → Job) : (State.modJob s n f).steady = s.steady := by rfl

@[simp] theorem State.enter_steady (s : State) (r : Report) : (State.enter s r).steady = s.steady := by
  simp [State.enter, State.steady]

@[simp] theorem State.event_steady (s : State) (code : Half) (uk : UnitKind) (ui : Nat) (detail : Word) :
    (State.event s code uk ui detail).steady = s.steady := by
  simp [State.event]

@[simp] theorem State.unitEvent_steady (s : State) (code : Half) (uk : UnitKind) (ui : Nat) (f : Option InFlight) (detail : Word) :
    (State.unitEvent s code uk ui f detail).steady = s.steady := by
  simp only [State.unitEvent]; (repeat' split) <;> simp

@[simp] theorem State.reportsInOrder_steady (s before : State) : (State.reportsInOrder s before).steady = s.steady := by
  simp [State.reportsInOrder, State.steady, Log.inOrder]

@[simp] theorem State.cmdEvent_steady (s : State) (code : Half) (uk : UnitKind) (ui : Nat) (f : InFlight) (detail : Word) :
    (State.cmdEvent s code uk ui f detail).steady = s.steady := by
  simp [State.cmdEvent]

@[simp] theorem State.raiseIrq_steady (s : State) (bitNo : Nat) : (State.raiseIrq s bitNo).steady = s.steady := by rfl

/-- The service outputs are not steady. -/
theorem State.modPins_svc_steady (s : State) (a b : Bool) :
    (s.modPins fun q => { q with svcDegraded := a, svcReplace := b }).steady = s.steady := rfl

@[simp] theorem State.leaveService_steady (s : State) (r : Report) : (State.leaveService s r).steady = s.steady := by
  simp only [State.leaveService]
  split <;> simp [State.modPins_svc_steady]

@[simp] theorem State.pumpPort_steady (s : State) (p : Fin 32) : (State.pumpPort s p).steady = s.steady := by
  simp only [State.pumpPort]; (repeat' split) <;> simp

@[simp] theorem State.addReq_steady (s : State) (r : Req) : (State.addReq s r).steady = s.steady := by
  simp [State.addReq]

@[simp] theorem State.bootRead_steady (s : State) (a n : Nat) : (State.bootRead s a n).steady = s.steady := by
  simp only [State.bootRead]; (repeat' split) <;> simp

@[simp] theorem State.extWriteBy_steady (s : State) (unit : Nat) (o : Origin) (far drain : Bool) (a : Nat) (bs : List Byte) (bad : List Nat) :
    (State.extWriteBy s unit o far drain a bs bad).steady = s.steady := by
  simp only [State.extWriteBy]; (repeat' split) <;> simp

@[simp] theorem State.extWrite_steady (s : State) (o : Origin) (far drain : Bool) (a : Nat) (bs : List Byte) (bad : List Nat) :
    (State.extWrite s o far drain a bs bad).steady = s.steady :=
  State.extWriteBy_steady s 0 o far drain a bs bad

@[simp] theorem State.blockWrite_steady (s : State) (a : Nat) (bs : List Byte) : (State.blockWrite s a bs).steady = s.steady := by
  simp [State.blockWrite]

@[simp] theorem State.extFetch_steady (s : State) (unit : Nat) (o : Origin) (far : Bool) (a n : Nat) (fills : List Fill) :
    (State.extFetch s unit o far a n fills).steady = s.steady := by
  simp [State.extFetch]

@[simp] theorem State.fetchAll_steady (s : State) (o : Origin) (l : List (Bool × Nat × Nat)) : (State.fetchAll s o l).steady = s.steady := by
  simp only [State.fetchAll]; (repeat' split) <;> simp

@[simp] theorem State.stale_steady (s : State) (far : Bool) (a n : Nat) : (State.stale s far a n).steady = s.steady := by rfl

@[simp] theorem State.jobWrite_steady (s : State) (o : Origin) (far drain : Bool) (a : Nat) (bs : List Byte) (bad : List Nat) :
    (State.jobWrite s o far drain a bs bad).steady = s.steady := by
  simp [State.jobWrite]

@[simp] theorem State.clearTier0_steady (s : State) : (State.clearTier0 s).steady = s.steady := by
  simp [State.clearTier0]

@[simp] theorem State.modFlight_steady (s : State) (n : Fin 32) (r : CmdRef) (g : InFlight → InFlight) :
    (State.modFlight s n r g).steady = s.steady := by rfl

@[simp] theorem State.releaseQueue_steady (s : State) (c : Fin 32) : (State.releaseQueue s c).steady = s.steady := by
  simp only [State.releaseQueue]; (repeat' split) <;> simp

@[simp] theorem State.freeSlot_steady (s : State) (c : Fin 32) (i : Fin 64) : (State.freeSlot s c i).steady = s.steady := by
  simp only [State.freeSlot]; split <;> simp

@[simp] theorem State.unhold_steady (s : State) (c : Fin 32) (i : Fin 64) : (State.unhold s c i).steady = s.steady := by rfl

@[simp] theorem State.startPolishes_steady (s : State) (c : Fin 32) : (State.startPolishes s c).steady = s.steady := by
  simp only [State.startPolishes]
  split
  · rfl
  · refine foldl_steady _ (fun s f => ?_) _ _
    split <;> simp

@[simp] theorem State.dropTask_steady (s : State) (c : Fin 32) (t : Task) : (State.dropTask s c t).steady = s.steady := by
  simp only [State.dropTask]; split <;> simp

@[simp] theorem State.dropTasks_steady (s : State) (c : Fin 32) (p : Task → Bool) : (State.dropTasks s c p).1.steady = s.steady := by
  simp [State.dropTasks]

@[simp] theorem State.returnItem_steady (s : State) (n : Fin 32) (t : Task) : (State.returnItem s n t).steady = s.steady := by rfl

@[simp] theorem State.returnTasks_steady (s : State) (c : Fin 32) (p : Task → Bool) : (State.returnTasks s c p).steady = s.steady := by
  simp only [State.returnTasks]; split <;> simp

@[simp] theorem State.freeHandles_steady (s : State) (l : List (BitVec 16)) : (State.freeHandles s l).steady = s.steady := by
  simp only [State.freeHandles]
  refine foldl_steady _ (fun s h => ?_) _ _
  split <;> simp

@[simp] theorem State.voidTags_steady (s : State) (n : Fin 32) (r : CmdRef) : (State.voidTags s n r).steady = s.steady := by
  simp only [State.voidTags]; (repeat' split) <;> simp

@[simp] theorem State.releaseCmd_steady (s : State) (n : Fin 32) (r : CmdRef) : (State.releaseCmd s n r).steady = s.steady := by
  simp only [State.releaseCmd, State.freeHandles_steady]
  refine (foldl_steady _ (fun s c => ?_) _ _).trans (by simp)
  refine (foldl_steady _ (fun s i => ?_) _ _).trans (by simp)
  (repeat' split) <;> simp

@[simp] theorem State.writeStatus_steady (s : State) (n : Fin 32) (r : CmdRef) (b : Byte) : (State.writeStatus s n r b).steady = s.steady := by
  simp only [State.writeStatus]; (repeat' split) <;> simp

@[simp] theorem State.finishCmd_steady (s : State) (n : Fin 32) (f : InFlight) (status : Byte) :
    (State.finishCmd s n f status).steady = s.steady := by
  simp [State.finishCmd]

@[simp] theorem State.issueStage_steady (s : State) (n : Fin 32) (r : CmdRef) (l : List (Bool × Nat × List Byte)) :
    (State.issueStage s n r l).steady = s.steady := by
  simp [State.issueStage]

@[simp] theorem State.advance_steady (n : Fin 32) (r : CmdRef) (k : Nat) (s : State) : (State.advance n r k s).steady = s.steady := by
  induction k generalizing s with
  | zero => rfl
  | succ k ih => simp only [State.advance]; (repeat' split) <;> simp [ih]

@[simp] theorem State.advanceCmd_steady (s : State) (n : Fin 32) (r : CmdRef) : (State.advanceCmd s n r).steady = s.steady := by
  simp [State.advanceCmd]

@[simp] theorem State.completeCmd_steady (s : State) (n : Fin 32) (r : CmdRef) (status : Byte) :
    (State.completeCmd s n r status).steady = s.steady := by
  simp [State.completeCmd]

@[simp] theorem State.stopCmd_steady (s : State) (n : Fin 32) (r : CmdRef) : (State.stopCmd s n r).steady = s.steady := by
  simp [State.stopCmd]

@[simp] theorem State.unlist_steady (s : State) (n : Fin 32) (ro : Roster) : (State.unlist s n ro).steady = s.steady := by
  simp only [State.unlist]
  refine foldl_steady _ (fun s e => ?_) _ _
  (repeat' split) <;> simp

@[simp] theorem State.endFaulted_steady (s : State) (n : Fin 32) (r : CmdRef) (status : Byte) :
    (State.endFaulted s n r status).steady = s.steady := by
  simp only [State.endFaulted]; split <;> simp

@[simp] theorem State.failWith_steady (s : State) (n : Fin 32) (f : InFlight) (r : Report) (status : Byte) :
    (State.failWith s n f r status).steady = s.steady := by
  simp only [State.failWith]; (repeat' split) <;> simp

@[simp] theorem State.failCmd_steady (s : State) (n : Fin 32) (f : InFlight) (code : Half) (scope : Scope) (uk : UnitKind) (ui : Nat) (detail : Word) (status : Byte) :
    (State.failCmd s n f code scope uk ui detail status).steady = s.steady := by
  simp [State.failCmd]

@[simp] theorem State.failRef_steady (s : State) (n : Fin 32) (r : CmdRef) (code : Half) (scope : Scope) (uk : UnitKind) (ui : Nat) :
    (State.failRef s n r code scope uk ui).steady = s.steady := by
  simp only [State.failRef]; split <;> simp

@[simp] theorem State.refuseAt_steady (s : State) (a : Nat) : (State.refuseAt s a).steady = s.steady := by rfl

@[simp] theorem State.seqFault_steady (s : State) (n : Fin 32) (f : InFlight) (code : Half) (uk : UnitKind) (ui entry : Nat) :
    (State.seqFault s n f code uk ui entry).steady = s.steady := by
  simp only [State.seqFault]; split <;> simp

@[simp] theorem State.endSequence_steady (s : State) (n : Fin 32) (f : InFlight) (code : Half) (uk : UnitKind) (ui i : Nat) :
    (State.endSequence s n f code uk ui i).steady = s.steady := by
  simp only [State.endSequence]; (repeat' split) <;> simp

@[simp] theorem State.refuseFor_steady (s : State) (n : Fin 32) (f : InFlight) (a : Nat) (entries : List Nat) :
    (State.refuseFor s n f a entries).steady = s.steady := by
  simp only [State.refuseFor]; (repeat' split) <;> simp

@[simp] theorem State.windowFault_steady (s : State) (n : Fin 32) (r : CmdRef) (a : Nat) : (State.windowFault s n r a).steady = s.steady := by
  simp [State.windowFault]

@[simp] theorem State.failIssue_steady (s : State) (n : Fin 32) (f : InFlight) (code : Half) (scope : Scope) :
    (State.failIssue s n f code scope).steady = s.steady := by
  simp [State.failIssue]

@[simp] theorem State.countCompleted_steady (s : State) (c : Fin 256) : (State.countCompleted s c).steady = s.steady := by rfl

@[simp] theorem State.putRecord_steady (s : State) (a : Nat) (b : List Byte) : (State.putRecord s a b).steady = s.steady := by
  simp [State.putRecord]

@[simp] theorem State.writeRecord_steady (s : State) (n : Fin 32) (endWord : Nat) : (State.writeRecord s n endWord).steady = s.steady := by
  simp only [State.writeRecord]; split <;> simp

@[simp] theorem State.setLead_steady (s : State) : (State.setLead s).steady = s.steady := by rfl

@[simp] theorem State.readChunk_steady (s : State) : (State.readChunk s).steady = s.steady := by
  simp only [State.readChunk]; (repeat' split) <;> simp

@[simp] theorem State.schedule_steady (s : State) : (State.schedule s).steady = s.steady := by
  simp only [State.schedule]; (repeat' split) <;> simp

@[simp] theorem State.releaseJob_steady (s : State) (n : Fin 32) : (State.releaseJob s n).steady = s.steady := by rfl

@[simp] theorem State.finishTeardown_steady (s : State) (n : Fin 32) : (State.finishTeardown s n).steady = s.steady := by
  simp [State.finishTeardown]

@[simp] theorem State.endRunning_steady (s : State) (n : Fin 32) (endWord : Nat) : (State.endRunning s n endWord).steady = s.steady := by
  simp only [State.endRunning]; split <;> simp

@[simp] theorem State.suspend_steady (s : State) : (State.suspend s).steady = s.steady := by
  simp only [State.suspend]; split <;> simp

@[simp] theorem State.afterDeferral_steady (s : State) : (State.afterDeferral s).steady = s.steady := by
  simp only [State.afterDeferral]; (repeat' split) <;> simp

@[simp] theorem State.dropUnissued_steady (s : State) (p : Req → Bool) : (State.dropUnissued s p).steady = s.steady := by rfl

@[simp] theorem State.tearWrite_steady (s : State) (q : Req) : (State.tearWrite s q).steady = s.steady := by rfl

@[simp] theorem State.startQuiesce_steady (s : State) (k : QuiesceKind) : (State.startQuiesce s k).steady = s.steady := by rfl

@[simp] theorem State.resetDiscarded_steady (s : State) (kind : Word) : (State.resetDiscarded s kind).steady = s.steady := by
  simp [State.resetDiscarded]

@[simp] theorem State.jobFails_steady (s : State) (code : Half) (index label : Word) : (State.jobFails s code index label).steady = s.steady := by
  simp only [State.jobFails]; (repeat' split) <;> simp

@[simp] theorem State.jobFault_steady (s : State) (code : Half) (uk : UnitKind) (ui : Nat) (index label : Word) :
    (State.jobFault s code uk ui index label).steady = s.steady := by
  simp only [State.jobFault]; (repeat' split) <;> simp

@[simp] theorem State.putTask_steady (s : State) (c : Fin 32) (t : Task) : (State.putTask s c t).steady = s.steady := by rfl

@[simp] theorem State.cutPass_steady (s : State) (c : Fin 32) (t : Task) (q : Pass) : (State.cutPass s c t q).steady = s.steady := by
  simp only [State.cutPass]; (repeat' split) <;> simp

@[simp] theorem State.stopFeeding_steady (s : State) (n : Fin 32) : (State.stopFeeding s n).steady = s.steady := by
  simp only [State.stopFeeding]
  refine foldl_steady _ (fun s c => foldl_steady _ (fun s t => ?_) _ _) _ _
  (repeat' split) <;> simp

@[simp] theorem State.checkProducts_steady (s : State) : (State.checkProducts s).steady = s.steady := by
  simp only [State.checkProducts]
  split
  · rfl
  · refine foldl_steady _ (fun s f => ?_) _ _
    (repeat' split) <;> simp

@[simp] theorem State.setSwitches_steady (s : State) : (State.setSwitches s).steady = s.steady := by rfl

@[simp] theorem State.checkFacets_steady (s : State) : (State.checkFacets s).steady = s.steady := by
  simp only [State.checkFacets]; split <;> simp

@[simp] theorem State.fenceFacet_steady (s : State) (g : Fin 128) (f : Option InFlight) (step cause : Nat) :
    (State.fenceFacet s g f step cause).steady = s.steady := by
  simp only [State.fenceFacet]; split <;> simp

@[simp] theorem State.fenceCore_steady (s : State) (c : Fin 32) (f : Option InFlight) (cause : Nat) :
    (State.fenceCore s c f cause).steady = s.steady := by
  simp [State.fenceCore]

@[simp] theorem State.pairLeaves_steady (s : State) (i : Fin 8) : (State.pairLeaves s i).steady = s.steady := by
  simp only [State.pairLeaves]
  (repeat' split) <;> simp

@[simp] theorem State.sendPort_steady (s : State) (p : Fin 4) : (State.sendPort s p).steady = s.steady := by
  simp only [State.sendPort]; split <;> simp

@[simp] theorem State.updateDegraded_steady (s : State) : (State.updateDegraded s).steady = s.steady := by rfl

@[simp] theorem State.portDown_steady (s : State) (p : Fin 4) : (State.portDown s p).steady = s.steady := by
  simp only [State.portDown]; split <;> simp

@[simp] theorem State.portUp_steady (s : State) (p : Fin 4) (uid : Word) : (State.portUp s p uid).steady = s.steady := by
  simp only [State.portUp]; (repeat' split) <;> simp

@[simp] theorem State.replayPort_steady (s : State) (p : Fin 4) : (State.replayPort s p).steady = s.steady := by
  simp only [State.replayPort]; (repeat' split) <;> simp

@[simp] theorem State.sendNak_steady (s : State) (p : Fin 4) (late : Bool) : (State.sendNak s p late).steady = s.steady := by
  simp only [State.sendNak]; split <;> simp

@[simp] theorem State.dropFlit_steady (s : State) (p : Fin 4) (late : Bool) : (State.dropFlit s p late).steady = s.steady := by
  simp [State.dropFlit]

@[simp] theorem State.readOwn_steady (s : State) (k : Fin 4) (r : Reduce) (a n : Nat) : (State.readOwn s k r a n).steady = s.steady := by
  simp only [State.readOwn]; (repeat' split) <;> simp

@[simp] theorem State.writeResults_steady (s : State) (k : Fin 4) (r : Reduce) (a : Nat) (vals : List Word) :
    (State.writeResults s k r a vals).steady = s.steady := by
  simp [State.writeResults]

@[simp] theorem State.chanEvent_steady (s : State) (k : Fin 4) (r : Reduce) (code : Half) (detail : Word) :
    (State.chanEvent s k r code detail).steady = s.steady := by
  simp [State.chanEvent]

@[simp] theorem State.endReduce_steady (s : State) (r : Reduce) (fault : Option Report) (status : Byte) :
    (State.endReduce s r fault status).steady = s.steady := by
  simp only [State.endReduce]; (repeat' split) <;> simp

@[simp] theorem State.recordWrite_steady (s : State) (r : Reduce) (off : Nat) (bs : List Byte) :
    (State.recordWrite s r off bs).steady = s.steady := by
  simp [State.recordWrite]

@[simp] theorem State.bucketStatus_steady (s : State) (r : Reduce) (status : Nat) : (State.bucketStatus s r status).steady = s.steady := by
  simp [State.bucketStatus]

@[simp] theorem State.bucketSum_steady (s : State) (r : Reduce) (bitmap : BitVec 128) (divisor : DWord) :
    (State.bucketSum s r bitmap divisor).steady = s.steady := by
  simp [State.bucketSum]

@[simp] theorem State.consume_steady (s : State) (k : Fin 4) (x : Payload) : (State.consume s k x).steady = s.steady := by rfl

@[simp] theorem State.emit_steady (s : State) (k : Fin 4) (bucket : Option (Word × Word × Nat)) (escape : Bool) (l : List (List Byte)) :
    (State.emit s k bucket escape l).steady = s.steady := by
  simp [State.emit]

@[simp] theorem State.setActive_steady (s : State) (k : Fin 4) (a : Active) : (State.setActive s k a).steady = s.steady := by rfl

@[simp] theorem State.sendRun_steady (s : State) (k : Fin 4) (a : Active) (positions : BitVec 128) (elements lap : Nat) (vals : List Word) (bad : Bool) :
    (State.sendRun s k a positions elements lap vals bad).1.steady = s.steady := by
  simp only [State.sendRun]; (repeat' split) <;> simp

@[simp] theorem State.haveOwn_steady (s : State) (k : Fin 4) (a : Active) (t n : Nat) (seg : Nat × Nat) :
    (State.haveOwn s k a t n seg).1.steady = s.steady := by
  simp only [State.haveOwn]; (repeat' split) <;> simp

@[simp] theorem State.ownRun_steady (s : State) (k : Fin 4) (a : Active) (t : Nat) (seg : Nat × Nat) :
    (State.ownRun s k a t seg).1.steady = s.steady := by
  simp only [State.ownRun]; (repeat' split) <;> simp

@[simp] theorem State.dropActive_steady (s : State) (k : Fin 4) : (State.dropActive s k).steady = s.steady := by
  simp only [State.dropActive]; split <;> simp

@[simp] theorem State.abandon_steady (s : State) (k : Fin 4) (fault : Report) : (State.abandon s k fault).steady = s.steady := by
  simp only [State.abandon]; (repeat' split) <;> simp

@[simp] theorem State.mismatch_steady (s : State) (k : Fin 4) (a : Active) : (State.mismatch s k a).steady = s.steady := by
  simp [State.mismatch]

@[simp] theorem State.endRelay_steady (s : State) (k : Fin 4) (a : Active) (known : Bool) : (State.endRelay s k a known).steady = s.steady := by rfl

@[simp] theorem State.takeHeader_steady (s : State) (k : Fin 4) (a0 : Active) (h : SegHeader) (x : Payload) :
    (State.takeHeader s k a0 h x).steady = s.steady := by
  simp only [State.takeHeader]; (repeat' split) <;> simp

@[simp] theorem State.adderEvents_steady (s : State) (k : Fin 4) (r : Reduce) (n : Nat) : (State.adderEvents s k r n).steady = s.steady := by
  simp [State.adderEvents]

@[simp] theorem State.adderFails_steady (s : State) (k : Fin 4) (a : Active) : (State.adderFails s k a).steady = s.steady := by
  simp only [State.adderFails, State.modRing_steady]
  exact (State.modPins_svc_steady _ _ _).trans (by simp)

@[simp] theorem State.takeData_steady (s : State) (k : Fin 4) (a : Active) (h : SegHeader) (x : Payload) :
    (State.takeData s k a h x).steady = s.steady := by
  simp only [State.takeData]; (repeat' split) <;> simp

@[simp] theorem State.segmentDone_steady (s : State) (k : Fin 4) (a : Active) : (State.segmentDone s k a).steady = s.steady := by
  simp only [State.segmentDone]; (repeat' split) <;> simp

theorem State.ownRun_steady_of {s : State} {k : Fin 4} {a : Active} {t : Nat} {seg : Nat × Nat} {s1 : State} {o : Option (List Word × Bool)}
    (h : State.ownRun s k a t seg = (s1, o)) : s1.steady = s.steady := by
  rw [← State.ownRun_steady s k a t seg, h]

theorem State.ownStep_steady (s : State) (k : Fin 4) (a : Active) (lap : Nat) (t : State) (h : State.ownStep s k a lap = some t) : t.steady = s.steady := by
  simp only [State.ownStep] at h
  split at h
  · cases h
  · split at h
    · next g =>
      have o := State.ownRun_steady_of g
      cases h
      simp [o]
    · next g =>
      have o := State.ownRun_steady_of g
      split at h <;> cases h
      exact o

theorem State.fillStep_steady (s : State) (k : Fin 4) (a : Active) (h : SegHeader) (t : State) (e : State.fillStep s k a h = some t) : t.steady = s.steady := by
  simp only [State.fillStep] at e
  split at e
  · cases e
  · split at e
    · next g =>
      have o := State.ownRun_steady_of g
      (repeat' split at e) <;> cases e <;> simp [o]
    · next g =>
      have o := State.ownRun_steady_of g
      split at e <;> cases e
      exact o

theorem State.aloneStep_steady (s : State) (k : Fin 4) (a : Active) (t : State) (h : State.aloneStep s k a = some t) : t.steady = s.steady := by
  simp only [State.aloneStep] at h
  split at h
  · next g =>
    have o := State.ownRun_steady_of g
    (repeat' split at h) <;> cases h <;> simp [o]
  · next g =>
    have o := State.ownRun_steady_of g
    split at h <;> cases h
    exact o

@[simp] theorem State.takeTrailer_steady (s : State) (k : Fin 4) (a0 : Active) (h : SegHeader) (x : Payload) :
    (State.takeTrailer s k a0 h x).steady = s.steady := by
  simp only [State.takeTrailer]; (repeat' split) <;> simp

theorem State.ownWork_steady (s : State) (k : Fin 4) (t : State) (h : State.ownWork s k = some t) : t.steady = s.steady := by
  simp only [State.ownWork] at h
  split at h
  · cases h
  · split at h
    · cases h
    · split at h
      · exact State.aloneStep_steady _ _ _ _ h
      · split at h
        · exact State.fillStep_steady _ _ _ _ _ h
        · exact State.ownStep_steady _ _ _ _ _ h
        · cases h

theorem State.withOwn_steady (s : State) (k : Fin 4) (a : Active) (h : SegHeader) (go : State → State)
    (hg : ∀ s, (go s).steady = s.steady) (t : State) (e : State.withOwn s k a h go = some t) : t.steady = s.steady := by
  simp only [State.withOwn] at e
  (repeat' split at e) <;> first | (cases e; simp [hg]; done) | cases e

theorem State.takeActive_steady (s : State) (k : Fin 4) (a : Active) (x : Payload) (t : State) (h : State.takeActive s k a x = some t) : t.steady = s.steady := by
  simp only [State.takeActive] at h
  (repeat' split at h) <;>
    first | (cases h; simp; done) | exact State.withOwn_steady _ _ _ _ _ (by simp) _ h | cases h

theorem State.takeFlit_steady (s : State) (k : Fin 4) (t : State) (h : State.takeFlit s k = some t) : t.steady = s.steady := by
  simp only [State.takeFlit] at h
  (repeat' split at h) <;> first | (cases h; simp; done) | exact State.takeActive_steady _ _ _ _ _ h | (cases h; split <;> simp; done) | cases h

@[simp] theorem pumpChan_steady (k : Fin 4) (n : Nat) (s : State) : (pumpChan k n s).steady = s.steady := by
  induction n generalizing s with
  | zero => rfl
  | succ n ih =>
    simp only [pumpChan]
    split
    · next t h => exact (ih t).trans (State.ownWork_steady s k t h)
    · split
      · rfl
      · next t h => exact (ih t).trans (State.takeFlit_steady s k t h)

@[simp] theorem State.pump_steady (s : State) (k : Fin 4) : (State.pump s k).steady = s.steady := by
  simp only [State.pump]; split <;> simp

@[simp] theorem State.pumpChannels_steady (s : State) : (State.pumpChannels s).steady = s.steady := by
  simp only [State.pumpChannels]; (repeat' split) <;> simp

@[simp] theorem State.portGoesOn_steady (s : State) (p : Fin 4) : (State.portGoesOn s p).steady = s.steady := by
  simp only [State.portGoesOn]; split <;> simp

@[simp] theorem State.foldWeight_steady (s : State) (r : Reduce) : (State.foldWeight s r).1.steady = s.steady := by
  simp only [State.foldWeight]; (repeat' split) <;> simp

@[simp] theorem State.decide_steady (s : State) (k : Fin 4) (a : Active) (contribute : Bool) : (State.decide s k a contribute).steady = s.steady := by
  simp only [State.decide]; (repeat' split) <;> simp

@[simp] theorem State.startBucket_steady (s : State) (k : Fin 4) (r0 : Reduce) : (State.startBucket s k r0).steady = s.steady := by
  simp only [State.startBucket]; (repeat' split) <;> simp

@[simp] theorem State.relayKnown_steady (s : State) (k : Fin 4) : (State.relayKnown s k).steady = s.steady := by
  simp only [State.relayKnown]; (repeat' split) <;> simp

@[simp] theorem State.noteReady_steady (s : State) : (State.noteReady s).steady = s.steady := by
  simp only [State.noteReady]; (repeat' split) <;> simp

@[simp] theorem State.statusLast_steady (s : State) (r : Reduce) (status : Nat) : (State.statusLast s r status).steady = s.steady := by
  simp only [State.statusLast]; (repeat' split) <;> simp

@[simp] theorem State.passBucket_steady (s : State) (k : Fin 4) (a : Active) : (State.passBucket s k a).steady = s.steady := by
  simp only [State.passBucket]; (repeat' split) <;> simp

@[simp] theorem State.abandonJob_steady (s : State) (n : Fin 32) : (State.abandonJob s n).steady = s.steady := by
  simp only [State.abandonJob]
  refine foldl_steady _ (fun s k => ?_) _ _
  (repeat' split) <;> simp

@[simp] theorem State.dropTraffic_steady (s : State) : (State.dropTraffic s).steady = s.steady := by
  simp [State.dropTraffic]

@[simp] theorem State.setCause_steady (s : State) (f : Cause → Cause) : (State.setCause s f).steady = s.steady := by rfl

@[simp] theorem State.registerWarm_steady (s : State) : (State.registerWarm s).steady = s.steady := by
  simp only [State.registerWarm]; split <;> simp

@[simp] theorem State.registerJob_steady (s : State) : (State.registerJob s).steady = s.steady := by
  simp only [State.registerJob]; (repeat' split) <;> simp

@[simp] theorem State.warmClear_steady (s : State) : (State.warmClear s).steady = s.steady := by
  have h (t : State) : (State.updateDegraded t).steady = t.steady := State.updateDegraded_steady t
  simp only [State.warmClear, h]
  simp only [State.steady]
  exact State.clearTier0_steady s

@[simp] theorem State.warmRecords_steady (s : State) : (State.warmRecords s).steady = s.steady := by
  simp only [State.warmRecords]
  refine foldl_steady _ (fun s n => ?_) _ _
  (repeat' split) <;> simp

@[simp] theorem State.jobResetEnds_steady (s : State) (endWord : Nat) : (State.jobResetEnds s endWord).steady = s.steady := by
  simp only [State.jobResetEnds]; (repeat' split) <;> simp

@[simp] theorem State.abortJob_steady (s : State) (n : Fin 32) : (State.abortJob s n).steady = s.steady := by
  simp only [State.abortJob]
  (repeat' split) <;> first | (simp; done) | exact (State.stopFeeding_steady _ _).trans ((State.startQuiesce_steady _ _).trans
    ((State.dropUnissued_steady _ _).trans ((steady_mk _ _ _ _ _ _ _ _ _ _ _ _ _).trans (by simp))))

@[simp] theorem State.clientReport_steady (s : State) (n : Fin 256) (code : Half) (fault : Bool) (scope : Scope) :
    (State.clientReport s n code fault scope).steady = s.steady := by
  simp [State.clientReport]

@[simp] theorem State.scanHeads_steady (s : State) : (State.scanHeads s).steady = s.steady := by
  simp only [State.scanHeads]
  refine foldl_steady _ (fun s n => ?_) _ _
  split <;> simp

@[simp] theorem State.checkHead_steady (s : State) (n : Fin 256) : (State.checkHead s n).steady = s.steady := by
  simp only [State.checkHead]; (repeat' split) <;> simp

@[simp] theorem State.takeEntry_steady (s : State) (n : Fin 256) : (State.takeEntry s n).steady = s.steady := by
  simp only [State.takeEntry]; (repeat' split) <;> simp

@[simp] theorem State.scanEntries_steady (s : State) : (State.scanEntries s).steady = s.steady := by
  have h1 (s : State) : ((List.finRange 256).foldl (fun s n => s.checkHead n) s).steady = s.steady :=
    foldl_steady _ State.checkHead_steady _ _
  have h2 (b : Nat) (l : List Nat) (s : State) : (l.foldl (fun s i => s.takeEntry ⟨(b + i) % 256, by omega⟩) s).steady = s.steady :=
    foldl_steady _ (fun s i => State.takeEntry_steady _ _) _ _
  have h3 (s : State) : ({ s with scan := Scan.reset } : State).steady = s.steady := rfl
  unfold State.scanEntries
  rw [h3, h2, h1]

@[simp] theorem State.scanStep_steady (s : State) : (State.scanStep s).steady = s.steady := by
  simp only [State.scanStep]; (repeat' split) <;> simp

@[simp] theorem State.startScan_steady (s : State) : (State.startScan s).steady = s.steady := by
  simp only [State.startScan]; (repeat' split) <;> simp

@[simp] theorem State.entryRead_steady (s : State) (n : Fin 256) : (State.entryRead s n).steady = s.steady := by
  simp only [State.entryRead]; (repeat' split) <;> simp

@[simp] theorem State.passEntry_steady (s : State) (n : Fin 256) (base : Nat) : (State.passEntry s n base).steady = s.steady := by
  simp [State.passEntry]

@[simp] theorem State.refuse_steady (s : State) (n : Fin 256) (t : Taken) (code : Half) : (State.refuse s n t code).steady = s.steady := by
  simp only [State.refuse]
  split
  · simp
  · simp only [State.countCompleted_steady, State.putRecord_steady, steady_mk, State.clientReport_steady, State.passEntry_steady]

@[simp] theorem State.overruns_steady (s : State) (n : Fin 32) (overrun : Nat) : (State.overruns s n overrun).steady = s.steady := by
  simp only [State.overruns]; split <;> simp

@[simp] theorem State.requestPreempt_steady (s : State) (n : Fin 32) (overrun : Nat) : (State.requestPreempt s n overrun).steady = s.steady := by
  simp only [State.requestPreempt]; (repeat' split) <;> simp

@[simp] theorem State.latencyArrives_steady (s : State) (overrun : Nat) : (State.latencyArrives s overrun).steady = s.steady := by
  simp only [State.latencyArrives]; (repeat' split) <;> simp

@[simp] theorem State.accept_steady (s : State) (c : Fin 256) (base : Nat) (d : JobDesc) (overrun : Nat) :
    (State.accept s c base d overrun).steady = s.steady := by
  simp only [State.accept]; (repeat' split) <;> simp

@[simp] theorem State.countParity_steady (s : State) (a : Nat) (shown parityError : Bool) :
    (State.countParity s a shown parityError).steady = s.steady := by
  simp only [State.countParity]; (repeat' split) <;> simp

@[simp] theorem State.newSlice_steady (s : State) : (State.newSlice s).steady = s.steady := by rfl

@[simp] theorem State.modSwitch_steady (s : State) (f : Switch → Switch) : (State.modSwitch s f).steady = s.steady := by
  simp only [State.modSwitch]; (repeat' split) <;> simp

@[simp] theorem State.saveStep_steady (s : State) (n : Fin 32) : (State.saveStep s n).steady = s.steady := by
  simp only [State.saveStep]; (repeat' split) <;> simp

@[simp] theorem State.startSave_steady (s : State) (n : Fin 32) (w : Switch) (live : Option (List DWord × List Byte)) :
    (State.startSave s n w live).steady = s.steady := by
  simp [State.startSave]

@[simp] theorem State.failSave_steady (s : State) : (State.failSave s).steady = s.steady := by
  simp only [State.failSave]; (repeat' split) <;> simp

@[simp] theorem State.readHeader_steady (s : State) : (State.readHeader s).steady = s.steady := by
  simp only [State.readHeader]; (repeat' split) <;> simp

@[simp] theorem State.restoreStep_steady (s : State) (n : Fin 32) : (State.restoreStep s n).steady = s.steady := by
  simp only [State.restoreStep]; (repeat' split) <;> simp

@[simp] theorem State.loadChunk_steady (s : State) (k : Nat) (b : List Byte) : (State.loadChunk s k b).steady = s.steady := by
  simp only [State.loadChunk]; (repeat' split) <;> simp

@[simp] theorem State.chunkRead_steady (s : State) : (State.chunkRead s).steady = s.steady := by
  simp only [State.chunkRead]; (repeat' split) <;> simp

@[simp] theorem State.residuesBack_steady (s : State) : (State.residuesBack s).steady = s.steady := by
  simp only [State.residuesBack]; (repeat' split) <;> simp

@[simp] theorem State.freeDiscarded_steady (s : State) (sv : Saved) : (State.freeDiscarded s sv).steady = s.steady := by
  simp only [State.freeDiscarded]
  split
  · rfl
  · refine foldl_steady _ (fun s c => ?_) _ _
    split
    · rfl
    · refine foldl_steady _ (fun s i => ?_) _ _
      split <;> simp

@[simp] theorem State.loadControl_steady (s : State) (sv : Saved) : (State.loadControl s sv).steady = s.steady := by
  simp [State.loadControl]

@[simp] theorem State.noteBelow_steady (s : State) (n : Fin 32) (record : Nat) (t below : Word) :
    (State.noteBelow s n record t below).steady = s.steady := by
  simp only [State.noteBelow]; (repeat' split) <;> simp

@[simp] theorem State.markIssued_steady (s : State) (r : CmdRef) : (State.markIssued s r).steady = s.steady := by
  simp only [State.markIssued]
  refine foldl_steady _ (fun s i => ?_) _ _
  split <;> simp

@[simp] theorem State.passFetch_steady (s : State) (x : Next) : (State.passFetch s x).steady = s.steady := by rfl

@[simp] theorem State.passCommand_steady (s : State) (x : Next) : (State.passCommand s x).steady = s.steady := by
  simp only [State.passCommand]; split <;> simp

@[simp] theorem State.issueNext_steady (s : State) (x : Next) (f : InFlight) : (State.issueNext s x f).steady = s.steady := by
  simp [State.issueNext]

theorem State.askStep_steady (s : State) (x : Next) (t : State) (h : State.askStep s x = some t) : t.steady = s.steady := by
  simp only [State.askStep] at h
  (repeat' split at h) <;> first | (cases h; simp; done) | cases h

@[simp] theorem State.controlStep_steady (s : State) (n : Fin 32) : (State.controlStep s n).steady = s.steady := by
  simp only [State.controlStep]
  split
  · next x _ =>
    split
    · cases h : s.askStep x with
      | none => rfl
      | some t => exact State.askStep_steady _ _ _ h
    · rfl
  · rfl

@[simp] theorem State.asked_steady (s : State) (x : Next) : (State.asked s x).steady = s.steady := by
  simp only [State.asked]; (repeat' split) <;> simp

@[simp] theorem State.failNext_steady (s : State) (x : Next) (code : Half) : (State.failNext s x code).steady = s.steady := by
  simp only [State.failNext]; split <;> simp

theorem State.issueWith_steady {α : Type} (s : State) (codes : List Nat) (check : State → Next → Except Half α) (run : Next → α → State)
    (h : ∀ x a, (run x a).steady = s.steady) : (State.issueWith s codes check run).steady = s.steady := by
  simp only [State.issueWith]
  split
  · rfl
  · split
    · next e => exact State.askStep_steady _ _ _ e
    · (repeat' split) <;> simp [h]

@[simp] theorem State.planEnds_steady (s : State) (n : Fin 32) (j : Job) (i : Nat) : (State.planEnds s n j i).steady = s.steady := by
  simp only [State.planEnds]; (repeat' split) <;> simp

@[simp] theorem State.takeChunk_steady (s : State) (n : Fin 32) (j : Job) (k : Nat) (bad : Nat → Bool) :
    (State.takeChunk s n j k bad).steady = s.steady := by
  simp only [State.takeChunk]; (repeat' split) <;> simp

@[simp] theorem State.modProduct_steady (s : State) (n : Fin 32) (r : CmdRef) (g : Product → Product) :
    (State.modProduct s n r g).steady = s.steady := by rfl

@[simp] theorem State.addTask_steady (s : State) (n : Fin 32) (c : Fin 32) (p : Product) (t : Task) :
    (State.addTask s n c p t).steady = s.steady := by
  simp only [State.addTask]; split <;> simp

@[simp] theorem State.addItems_steady (s : State) (n : Fin 32) (c : Fin 32) (r : CmdRef) (p : Product) (queued : List (BitVec 16)) (l : List Nat) :
    (State.addItems s n c r p queued l).steady = s.steady := by
  simp only [State.addItems]
  refine foldl_steady _ (fun s i => ?_) _ _
  split <;> simp

@[simp] theorem State.takeHandle_steady (s : State) (n : Fin 32) (c : Fin 32) (r : CmdRef) (p : Product) (h : BitVec 16) :
    (State.takeHandle s n c r p h).steady = s.steady := by
  simp only [State.takeHandle]; split <;> simp

@[simp] theorem State.feedQueue_steady (n : Fin 32) (c : Fin 32) (q : Fin 16) (k : Nat) (s : State) :
    (State.feedQueue n c q k s).steady = s.steady := by
  induction k generalizing s with
  | zero => rfl
  | succ k ih => simp only [State.feedQueue]; (repeat' split) <;> simp [ih]

@[simp] theorem State.feedQueues_steady (s : State) (n : Fin 32) (q : Fin 16) : (State.feedQueues s n q).steady = s.steady := by
  simp [State.feedQueues]

@[simp] theorem State.countCtrl_steady (s : State) (c : Fin 32) : (State.countCtrl s c).steady = s.steady := by rfl

@[simp] theorem State.dropFills_steady (s : State) (c : Fin 32) (i : Fin 64) : (State.dropFills s c i).steady = s.steady := by rfl

theorem State.takeSlot_steady (s : State) (c : Fin 32) (cls : Fin 16) (i : Fin 64) (t : State) (h : s.takeSlot c cls = some (i, t)) :
    t.steady = s.steady := by
  simp only [State.takeSlot] at h
  split at h
  · cases h
  · cases h; simp

@[simp] theorem State.fetchInto_steady (s : State) (r : CmdRef) (srcs : List Src) (c : Fin 32) : (State.fetchInto s r srcs c).steady = s.steady := by
  have one (l : List Src) (s : State) : (l.foldl (fun s x =>
      match (s.cores[c]).findCopy x with | some (i, _) => s.modCore c fun k => k.reuse r i | none => s) s).steady = s.steady := by
    refine foldl_steady _ (fun s x => ?_) _ _
    split <;> simp
  simp only [State.fetchInto]
  split
  · exact one _ _
  · split
    · exact one _ _
    · next i t h => exact (State.modCore_steady _ _ _).trans ((State.takeSlot_steady _ _ _ _ _ h).trans (one _ _))

@[simp] theorem State.slotReady_steady (s : State) (n : Fin 32) (c : Fin 32) (i : Fin 64) : (State.slotReady s n c i).steady = s.steady := by
  simp only [State.slotReady]; (repeat' split) <;> simp

@[simp] theorem State.fetchTiles_steady (s : State) (n : Fin 32) (r : CmdRef) (rows : Bool) (srcs : List Src) (targets : List (Fin 32)) :
    (State.fetchTiles s n r rows srcs targets).steady = s.steady := by
  simp only [State.fetchTiles]
  refine (foldl_steady _ (fun s x => ?_) _ _).trans (by simp)
  split <;> simp

@[simp] theorem State.retireSlot_steady (s : State) (c : Fin 32) (i : Fin 64) (f : Option InFlight) :
    (State.retireSlot s c i f).steady = s.steady := by
  simp only [State.retireSlot]; split <;> simp

@[simp] theorem State.refetch_steady (s : State) (n : Fin 32) (c : Fin 32) (i : Fin 64) : (State.refetch s n c i).steady = s.steady := by
  simp [State.refetch]

@[simp] theorem State.slotParity_steady (s : State) (n : Fin 32) (c : Fin 32) (i : Fin 64) (f : Option InFlight) (word : Nat) :
    (State.slotParity s n c i f word).steady = s.steady := by
  simp only [State.slotParity]; (repeat' split) <;> simp

@[simp] theorem State.tagParity_steady (s : State) (c : Fin 32) (i : Fin 64) : (State.tagParity s c i).steady = s.steady := by
  simp only [State.tagParity]; split <;> simp

@[simp] theorem State.settleWrites_steady (n : Fin 32) (r : CmdRef) (l : List (Bool × Nat × List Byte)) (s : State) :
    (State.settleWrites n r l s).1.steady = s.steady := by
  induction l generalizing s with
  | nil => rfl
  | cons x l ih => simp only [State.settleWrites]; split <;> simp [ih]

theorem State.settleWrites_steady_of {n : Fin 32} {r : CmdRef} {l : List (Bool × Nat × List Byte)} {s t : State} {o : Option Nat}
    (h : State.settleWrites n r l s = (t, o)) : t.steady = s.steady := by
  rw [← State.settleWrites_steady n r l s, h]

@[simp] theorem State.eventOnce_steady (s : State) (n : Fin 32) (r : CmdRef) (code : Half) (uk : UnitKind) (ui : Nat) :
    (State.eventOnce s n r code uk ui).steady = s.steady := by
  simp only [State.eventOnce]; (repeat' split) <;> simp

@[simp] theorem State.outWrites_steady (n : Fin 32) (f : InFlight) (l : List OutWrite) (s : State) :
    (State.outWrites n f l s).1.steady = s.steady := by
  induction l generalizing s with
  | nil => rfl
  | cons x l ih => simp only [State.outWrites]; (repeat' split) <;> simp [ih]

theorem State.takeTables_steady (s : State) (n : Fin 32) (r : CmdRef) (cores : List (Fin 32)) (t : State) (h : State.takeTables s n r cores = some t) : t.steady = s.steady := by
  simp only [State.takeTables] at h
  split at h
  · cases h
  · cases h
    refine foldl_steady _ (fun s c => ?_) _ _
    split
    · rfl
    · next i s1 e => simp [State.takeSlot_steady _ _ _ _ _ e]

theorem State.claimTables_steady (s : State) (n : Fin 32) (f : InFlight) (t : State) (h : State.claimTables s n f = some t) : t.steady = s.steady := by
  simp only [State.claimTables] at h
  (repeat' split at h) <;> first | (cases h; simp; done) | exact (State.takeTables_steady _ _ _ _ _ h).trans (by simp)

theorem State.takeFor_steady (s : State) (c : Fin 32) (cls : Fin 16) (x : Option Src) (y : (Fin 64 × Bool)) (t : State)
    (h : State.takeFor s c cls x = some (y, t)) : t.steady = s.steady := by
  simp only [State.takeFor] at h
  split at h
  · cases h; simp
  · simp only [Option.map_eq_some_iff] at h
    obtain ⟨z, hz, e⟩ := h
    cases e
    exact State.takeSlot_steady s c cls z.1 z.2 hz

@[simp] theorem State.modMover_steady (s : State) (n : Fin 32) (r : CmdRef) (g : Mover → Mover) : (State.modMover s n r g).steady = s.steady := by rfl

@[simp] theorem State.takeEntry1_steady (s : State) (n : Fin 32) (f : InFlight) (mv : Mover) (d : Desc) (k : Nat) (c : Fin 32) :
    (State.takeEntry1 s n f mv d k c).steady = s.steady := by
  simp only [State.takeEntry1]
  split
  · rfl
  · next h => (repeat' split) <;> simp [State.takeFor_steady _ _ _ _ _ _ h]

theorem State.moveIn_steady (s : State) (n : Fin 32) (j : Job) (f : InFlight) (mv : Mover) (d : Desc) (k : Nat) (cores : List (Fin 32)) (t : State) (h : State.moveIn s n j f mv d k cores = some t) : t.steady = s.steady := by
  simp only [State.moveIn] at h
  (repeat' split at h) <;> first | (cases h; simp; done) | cases h

@[simp] theorem State.fillSlot_steady (s : State) (c : Fin 32) (i : Fin 64) (l : List (TileCopy × List Byte)) :
    (State.fillSlot s c i l).steady = s.steady := by
  simp only [State.fillSlot]; (repeat' split) <;> simp

@[simp] theorem State.seen_steady (s : State) (f : InFlight) : (State.seen s f).steady = s.steady := by
  simp only [State.seen]; (repeat' split) <;> simp

@[simp] theorem State.moveLands_steady (s : State) (n : Fin 32) (f : InFlight) (mv : Mover) (d : Desc) (k : Nat) :
    (State.moveLands s n f mv d k).steady = s.steady := by
  simp only [State.moveLands, State.modMover_steady]
  refine (foldl_steady _ (fun s x => by simp) _ _).trans ?_
  split <;> simp

theorem State.outWrites_steady_of {n : Fin 32} {f : InFlight} {l : List OutWrite} {s t : State} {o : Option Nat}
    (h : State.outWrites n f l s = (t, o)) : t.steady = s.steady := by
  rw [← State.outWrites_steady n f l s, h]

@[simp] theorem State.moveOut_steady (s : State) (n : Fin 32) (f : InFlight) (mv : Mover) (d : Desc) (c : Fin 32) (h : BitVec 16) :
    (State.moveOut s n f mv d c h).steady = s.steady := by
  simp only [State.moveOut]
  (repeat' split) <;> simp

theorem State.moveStep_steady (s : State) (n : Fin 32) (j : Job) (f : InFlight) (mv : Mover) (t : State) (h : State.moveStep s n j f mv = some t) : t.steady = s.steady := by
  simp only [State.moveStep] at h
  (repeat' split at h) <;>
    first
    | (simp only [Option.bind_eq_some_iff] at h
       obtain ⟨s1, h1, h2⟩ := h
       exact (State.moveIn_steady _ _ _ _ _ _ _ _ _ h2).trans (State.claimTables_steady _ _ _ _ h1))
    | (simp only [Option.map_eq_some_iff] at h
       obtain ⟨x, -, rfl⟩ := h
       simp; done)
    | (cases h; simp; done)
    | cases h

@[simp] theorem State.pumpMove_steady (n : Fin 32) (r : CmdRef) (k : Nat) (s : State) : (State.pumpMove n r k s).steady = s.steady := by
  induction k generalizing s with
  | zero => rfl
  | succ k ih =>
    simp only [State.pumpMove]
    split
    · split
      · rfl
      · split
        · rfl
        · split
          · simp
          · split
            · next t h => exact (ih t).trans (State.moveStep_steady _ _ _ _ _ _ h)
            · rfl
    · rfl

@[simp] theorem State.pumpMoves_steady (s : State) (n : Fin 32) : (State.pumpMoves s n).steady = s.steady := by
  simp only [State.pumpMoves]
  exact foldl_steady _ (fun s x => State.pumpMove_steady _ _ _ _) _ _

@[simp] theorem State.outParity_steady (s : State) (n : Fin 32) (q : Fin 16) (h : BitVec 16) (words : List Nat) :
    (State.outParity s n q h words).steady = s.steady := by
  simp only [State.outParity]; (repeat' split) <;> simp

@[simp] theorem State.loadBlock_steady (s : State) (c : Fin 32) (p : Product) (t : Task) (cells : List (List (Option (BitVec 14)))) :
    (State.loadBlock s c p t cells).steady = s.steady := by
  simp only [State.loadBlock]
  refine foldl_steady _ (fun s x => ?_) _ _
  split <;> simp

@[simp] theorem State.runPass_steady (s : State) (j : Job) (p : Product) (c : Fin 32) (t : Task) (k : Nat) (q : PassPlan) (ts : List Nat) :
    (State.runPass s j p c t k q ts).1.steady = s.steady := by
  simp only [State.runPass]; (repeat' split) <;> simp

@[simp] theorem State.feederErrors_steady (s : State) (c : Fin 32) (f : InFlight) (l : List Nat) :
    (State.feederErrors s c f l).steady = s.steady := by
  simp only [State.feederErrors]; (repeat' split) <;> simp

@[simp] theorem State.carryParity_steady (s : State) (n : Fin 32) (c : Fin 32) (i : Fin 64) (word : Nat) :
    (State.carryParity s n c i word).steady = s.steady := by
  simp only [State.carryParity]; (repeat' split) <;> simp

@[simp] theorem State.issueDetections_steady (s : State) (n : Fin 32) (c : Fin 32) (f : InFlight) (det : List Detection) :
    (State.issueDetections s n c f det).steady = s.steady := by
  simp only [State.issueDetections, State.reportsInOrder_steady, State.feederErrors_steady]
  refine foldl_steady _ (fun s d => ?_) _ _
  split <;> simp

@[simp] theorem State.takeCarry_steady (c : Fin 32) (k : Nat) (x : State × List (Fin 64)) : (State.takeCarry c k x).1.steady = x.1.steady := by
  induction k generalizing x with
  | zero => rfl
  | succ k ih =>
    obtain ⟨s, l⟩ := x
    simp only [State.takeCarry]
    split
    · next i t h => exact (ih _).trans ((State.modCore_steady _ _ _).trans (State.takeSlot_steady _ _ _ _ _ h))
    · rfl

@[simp] theorem State.prepare_steady (s : State) (c : Fin 32) (p : Product) (t : Task) (l : List PassPlan) :
    (State.prepare s c p t l).1.steady = s.steady := by
  simp only [State.prepare]
  (repeat' split) <;> first | rfl | exact State.takeCarry_steady _ _ _

@[simp] theorem State.markRead_steady (s : State) (c : Fin 32) (p : Product) (t : Task) (l : List Need) :
    (State.markRead s c p t l).steady = s.steady := by
  simp [State.markRead]

@[simp] theorem State.startPass_steady (s : State) (j : Job) (c : Fin 32) (f : InFlight) (p : Product) (t : Task) (l : List PassPlan) (q : PassPlan) :
    (State.startPass s j c f p t l q).steady = s.steady := by
  simp only [State.startPass]
  split <;> simp

@[simp] theorem State.releaseSlots_steady (s : State) (n : Fin 32) (c : Fin 32) (r : CmdRef) (item : Nat) (gang : List (Fin 4)) :
    (State.releaseSlots s n c r item gang).steady = s.steady := by
  simp only [State.releaseSlots]
  split
  · refine foldl_steady _ (fun s i => ?_) _ _
    split <;> simp
  · rfl

@[simp] theorem State.releaseHandles_steady (s : State) (c : Fin 32) (r : CmdRef) (l : List (BitVec 16)) :
    (State.releaseHandles s c r l).steady = s.steady := by
  simp only [State.releaseHandles]
  refine foldl_steady _ (fun s h => ?_) _ _
  split <;> simp

@[simp] theorem State.endTask_steady (s : State) (n : Fin 32) (c : Fin 32) (t : Task) : (State.endTask s n c t).steady = s.steady := by
  simp [State.endTask]

@[simp] theorem State.statWrites_steady (s : State) (n : Fin 32) (d : Desc) (step : Nat) (m : List Word) :
    (State.statWrites s n d step m).2.steady = s.steady := by
  simp only [State.statWrites]
  generalize List.isEmpty _ = b
  cases b <;> rfl

@[simp] theorem State.finishProduct_steady (s : State) (n : Fin 32) (r : CmdRef) : (State.finishProduct s n r).steady = s.steady := by
  simp only [State.finishProduct]
  split
  · rfl
  · split
    all_goals next h => simp [State.settleWrites_steady_of h]

@[simp] theorem State.checkSettled_steady (s : State) (n : Fin 32) (r : CmdRef) : (State.checkSettled s n r).steady = s.steady := by
  simp only [State.checkSettled]; (repeat' split) <;> simp

@[simp] theorem State.countSat_steady (s : State) (c : Fin 32) (k : Nat) : (State.countSat s c k).steady = s.steady := by rfl

@[simp] theorem State.noteSettle_steady (s : State) (n : Fin 32) (c : Fin 32) (t : Task) (x : Settle) :
    (State.noteSettle s n c t x).steady = s.steady := by
  simp only [State.noteSettle]; split <;> simp

theorem State.drainAsk_steady (s : State) (n : Fin 32) (c : Fin 32) (t : Task) (reads : List DrainRead) (u : State)
    (h : State.drainAsk s n c t reads = some u) : u.steady = s.steady := by
  simp only [State.drainAsk] at h
  (repeat' split at h) <;> first | (cases h; simp; done) | cases h

@[simp] theorem State.drainOut_steady (s : State) (c : Fin 32) : (State.drainOut s c).steady = s.steady := by
  simp only [State.drainOut]; (repeat' split) <;> simp

@[simp] theorem State.settleWith_steady (s : State) (n : Fin 32) (f : InFlight) (c : Fin 32) (p : Product) (t : Task) (others : List (Fin 32 × Task)) (x : Settle) :
    (State.settleWith s n f c p t others x).steady = s.steady := by
  simp only [State.settleWith]
  (repeat' split) <;> (try simp; done)
  · next h => simpa using State.outWrites_steady_of h
  · next h =>
    refine (State.checkSettled_steady _ _ _).trans ?_
    refine (foldl_steady _ (fun s y => by simp) _ _).trans ?_
    simpa using State.outWrites_steady_of h

theorem State.poisonEnds_steady (s : State) (n : Fin 32) (f : InFlight) (c : Fin 32) (p : Product) (t : Task) (bad : List Nat) (s1 : State)
    (h : s.poisonEnds n f c p t bad = some s1) : s1.steady = s.steady := by
  simp only [State.poisonEnds] at h
  split at h
  · cases h; rfl
  · split at h
    · cases h; exact foldl_steady _ (fun s x => by simp) _ _
    · cases h

@[simp] theorem State.settleRows_steady (s : State) (n : Fin 32) (j : Job) (f : InFlight) (c : Fin 32) (p : Product) (t : Task) (others : List (Fin 32 × Task)) :
    (State.settleRows s n j f c p t others).steady = s.steady := by
  simp only [State.settleRows]
  split
  · next h => exact State.drainAsk_steady _ _ _ _ _ _ h
  · split
    · simp
    · next h => simp [State.poisonEnds_steady _ _ _ _ _ _ _ _ h]

@[simp] theorem State.settleItem_steady (s : State) (n : Fin 32) (j : Job) (f : InFlight) (c : Fin 32) (p : Product) (t : Task) :
    (State.settleItem s n j f c p t).steady = s.steady := by
  simp only [State.settleItem]; (repeat' split) <;> simp

@[simp] theorem State.settleUnit_steady (s : State) (n : Fin 32) (j : Job) (f : InFlight) (c : Fin 32) (p : Product) (t : Task) :
    (State.settleUnit s n j f c p t).steady = s.steady := by
  simp only [State.settleUnit]
  split
  · next h => exact State.drainAsk_steady _ _ _ _ _ _ h
  · split
    · simp
    · next s1 h => simp [State.poisonEnds_steady _ _ _ _ _ _ _ _ h]

@[simp] theorem State.settleWaiting_steady (s : State) (n : Fin 32) : (State.settleWaiting s n).steady = s.steady := by
  simp only [State.settleWaiting]
  refine foldl_steady _ (fun s x => ?_) _ _
  (repeat' split) <;> simp

@[simp] theorem State.askPolish_steady (s : State) (g : Fin 128) : (State.askPolish s g).steady = s.steady := by rfl

@[simp] theorem State.noteSuppressed_steady (s : State) (c : Fin 32) (f : InFlight) (x : Fin 4 × Half × List Nat) :
    (State.noteSuppressed s c f x).steady = s.steady := by
  simp only [State.noteSuppressed]; (repeat' split) <;> simp

@[simp] theorem State.accErrors_steady (s : State) (c : Fin 32) (f : InFlight) (fx : Fin 4) (rows l : List Nat) :
    (State.accErrors s c f fx rows l).steady = s.steady := by
  simp only [State.accErrors]; (repeat' split) <;> simp

@[simp] theorem State.drainRow_steady (s : State) (c : Fin 32) (f : InFlight) (lanes : List Nat) :
    (State.drainRow s c f lanes).steady = s.steady := by
  simp only [State.drainRow]; (repeat' split) <;> simp

@[simp] theorem State.drainRows_steady (s : State) (c : Fin 32) (f : InFlight) (l : List (Nat × Nat)) (rows : List Nat) :
    (State.drainRows s c f l rows).steady = s.steady := by
  simp [State.drainRows]

@[simp] theorem State.restartUnit_steady (s : State) (n : Fin 32) (c : Fin 32) (t : Task) : (State.restartUnit s n c t).steady = s.steady := by
  simp [State.restartUnit]

@[simp] theorem State.residueError_steady (s : State) (n : Fin 32) (c : Fin 32) (f : InFlight) (t : Task) (row : Nat) :
    (State.residueError s n c f t row).steady = s.steady := by
  simp only [State.residueError]; split <;> simp

@[simp] theorem State.writeCarry_steady (s : State) (c : Fin 32) (p : Product) (t : Task) (rows : List ResultRow) :
    (State.writeCarry s c p t rows).steady = s.steady := by rfl

@[simp] theorem State.addRows_steady (s : State) (c : Fin 32) (p : Product) (t : Task) (rows : List ResultRow) :
    (State.addRows s c p t rows).1.steady = s.steady := by
  simp only [State.addRows]; split <;> simp

@[simp] theorem State.takeRows_steady (s : State) (c : Fin 32) (p : Product) (t : Task) (last : Bool) (rows : List ResultRow) :
    (State.takeRows s c p t last rows).1.1.steady = s.steady := by
  simp only [State.takeRows]; (repeat' split) <;> simp

@[simp] theorem State.unitDone_steady (s : State) (n : Fin 32) (j : Job) (f : InFlight) (c : Fin 32) (p : Product) (t : Task) (lanes : List (Nat × Nat)) :
    (State.unitDone s n j f c p t lanes).steady = s.steady := by
  simp only [State.unitDone]
  split
  · simp
  · split
    · simp
    · (repeat' split) <;> simp

@[simp] theorem State.replayLimit_steady (s : State) (n : Fin 32) (c : Fin 32) (f : InFlight) (t : Task) (facets : List (Fin 4)) :
    (State.replayLimit s n c f t facets).steady = s.steady := by
  simp [State.replayLimit]

@[simp] theorem State.noteDetections_steady (s : State) (f : InFlight) (c : Fin 32) (p : Product) (t : Task) (drained added : List Nat) (hits : List (Fin 4 × Half × List Nat))
    (det : List Detection) : (State.noteDetections s f c p t drained added hits det).steady = s.steady := by
  have hit (s : State) : (hits.foldl (fun s x => s.noteSuppressed c f x) s).steady = s.steady :=
    foldl_steady _ (fun s x => State.noteSuppressed_steady _ _ _ _) _ _
  simp only [State.noteDetections]
  (repeat' split) <;> simp [hit]

@[simp] theorem State.promote_steady (s : State) (j : Job) (f : InFlight) (c : Fin 32) (p : Product) (t : Task) (k : Nat) :
    (State.promote s j f c p t k).steady = s.steady := by
  simp only [State.promote]; (repeat' split) <;> simp

@[simp] theorem State.passClean_steady (s : State) (n : Fin 32) (j : Job) (f : InFlight) (c : Fin 32) (p : Product) (t : Task) (number : Nat) (lanes : List (Nat × Nat)) :
    (State.passClean s n j f c p t number lanes).steady = s.steady := by
  simp only [State.passClean]; (repeat' split) <;> simp

@[simp] theorem State.passAgain_steady (s : State) (n : Fin 32) (f : InFlight) (c : Fin 32) (t : Task) (hits : List (Fin 4 × Half × List Nat)) (failed : Nat) (bad again rest : List Nat) :
    (State.passAgain s n f c t hits failed bad again rest).steady = s.steady := by
  simp only [State.passAgain]; (repeat' split) <;> simp

@[simp] theorem State.verdictWith_steady (s : State) (n : Fin 32) (j : Job) (f : InFlight) (c : Fin 32) (p : Product) (t : Task) (q : Pass) (hits : List (Fin 4 × Half × List Nat)) (det : List Detection) (told : Bool) :
    (State.verdictWith s n j f c p t q hits det told).steady = s.steady := by
  simp only [State.verdictWith]; (repeat' split) <;> simp

@[simp] theorem State.verdict_steady (s : State) (n : Fin 32) (j : Job) (f : InFlight) (c : Fin 32) (p : Product) (t : Task) (q : Pass) (det : List Detection) :
    (State.verdict s n j f c p t q det).steady = s.steady := by
  simp only [State.verdict]; (repeat' split) <;> simp

@[simp] theorem State.combineInto_steady (s : State) (n : Fin 32) (j : Job) (f : InFlight) (p : Product) (cq ci : Fin 32) (tq t : Task) (lanes : List (Nat × Nat)) :
    (State.combineInto s n j f p cq ci tq t lanes).steady = s.steady := by
  simp only [State.combineInto]; (repeat' split) <;> simp

@[simp] theorem State.startProduct_steady (s : State) (x : Next) (i : ProdIssue) : (State.startProduct s x i).steady = s.steady := by
  simp only [State.startProduct]
  split
  all_goals
    next h =>
      (try split) <;> simp only [State.windowFault_steady, State.checkSettled_steady, State.feedQueues_steady, State.settleWrites_steady_of h]
        <;> (repeat' split) <;> simp

@[simp] theorem State.settleDone_steady (s : State) (n : Fin 32) (f : InFlight) (p : SettlePlan) (m : SettleSum) :
    (State.settleDone s n f p m).steady = s.steady := by
  simp only [State.settleDone]
  split
  all_goals next h => simp [State.settleWrites_steady_of h]

@[simp] theorem State.updateDone_steady (s : State) (n : Fin 32) (f : InFlight) (u : UpdRun) (st : Stats) :
    (State.updateDone s n f u st).steady = s.steady := by
  simp only [State.updateDone]
  split
  all_goals next h => simp [State.settleWrites_steady_of h]

@[simp] theorem State.lanesAgain_steady (s : State) (f : InFlight) (u : UpdRun) (det : List Detection) :
    (State.lanesAgain s f u det).steady = s.steady := by
  simp only [State.lanesAgain]; split <;> simp

@[simp] theorem State.normDone_steady (s : State) (n : Fin 32) (f : InFlight) (r : NormRun) (sum : DWord) :
    (State.normDone s n f r sum).steady = s.steady := by
  simp only [State.normDone]
  split
  all_goals next h => simp [State.settleWrites_steady_of h]

theorem State.withRecord_steady (s : State) (x : Next) (m : MaskRun) (f : InFlight) (k : State → State) (h : ∀ t, (k t).steady = t.steady) :
    (State.withRecord s x m f k).steady = s.steady := by
  simp only [State.withRecord]; split <;> simp [h]

@[simp] theorem State.maskDone_steady (s : State) (n : Fin 32) (f : InFlight) (stages : List (List (Bool × Nat × List Byte))) :
    (State.maskDone s n f stages).steady = s.steady := by
  simp only [State.maskDone]; (repeat' split) <;> simp

@[simp] theorem State.pruneDone_steady (s : State) (n : Fin 32) (f : InFlight) (m : MaskRun) (t : PruneSum) :
    (State.pruneDone s n f m t).steady = s.steady := by
  simp only [State.pruneDone]; (repeat' split) <;> simp

@[simp] theorem State.regrowDone_steady (s : State) (n : Fin 32) (f : InFlight) (m : MaskRun) (t : RegrowSum) :
    (State.regrowDone s n f m t).steady = s.steady := by
  simp only [State.regrowDone]; (repeat' split) <;> simp

@[simp] theorem State.startCommit_steady (s : State) (x : Next) (m : MaskRun) : (State.startCommit s x m).steady = s.steady := by
  simp only [State.startCommit]
  split
  · simp
  · exact State.withRecord_steady _ _ _ _ _ fun t => by simp

@[simp] theorem State.buildDone_steady (s : State) (n : Fin 32) (f : InFlight) (listed : Option (List Nat × Bool)) :
    (State.buildDone s n f listed).steady = s.steady := by
  simp only [State.buildDone]; (repeat' split) <;> simp

@[simp] theorem State.modWork_steady (s : State) (n : Fin 32) (r : CmdRef) (g : Work → Work) : (State.modWork s n r g).steady = s.steady := by
  simp only [State.modWork]; (repeat' split) <;> simp

@[simp] theorem State.fillTables_steady (s : State) (w : Work) (l : List InRead) : (State.fillTables s w l).1.steady = s.steady := by
  simp only [State.fillTables]; (repeat' split) <;> simp

@[simp] theorem State.issueReads_steady (s : State) (n : Fin 32) (j : Job) (f : InFlight) (w : Work) (l : List InRead) :
    (State.issueReads s n j f w l).steady = s.steady := by
  simp only [State.issueReads]; (repeat' split) <;> simp

@[simp] theorem State.pieceEnds_steady (s : State) (n : Fin 32) (f : InFlight) (o : PieceOut) : (State.pieceEnds s n f o).steady = s.steady := by
  simp only [State.pieceEnds]; (repeat' split) <;> simp

@[simp] theorem State.pieceDone_steady (s : State) (n : Fin 32) (j : Job) (f : InFlight) (rest : List Piece) (o : PieceOut) :
    (State.pieceDone s n j f rest o).steady = s.steady := by
  simp only [State.pieceDone]; (repeat' split) <;> simp

theorem State.workDone_steady (s : State) (n : Fin 32) (j : Job) (f : InFlight) (w : Work) (t : State) (h : State.workDone s n j f w = some t) : t.steady = s.steady := by
  simp only [State.workDone] at h
  (repeat' split at h) <;> first | (cases h; simp; done) | cases h

@[simp] theorem State.workStep_steady (s : State) (n : Fin 32) (j : Job) (f : InFlight) (w : Work) (t : State) (h : State.workStep s n j f w = some t) : t.steady = s.steady := by
  simp only [State.workStep] at h
  split at h
  · cases h
  · split at h
    · exact State.workDone_steady _ _ _ _ _ _ h
    · split at h
      · cases h; simp
      · split at h
        · cases h
        · split at h
          · cases h
          · next s1 e =>
            have e1 : s1.steady = s.steady := by
              split at e
              · exact State.claimTables_steady _ _ _ _ e
              · cases e; rfl
            (repeat' split at h) <;> (cases h; simp [e1])

@[simp] theorem State.pumpWork_steady (n : Fin 32) (r : CmdRef) (k : Nat) (s : State) : (State.pumpWork n r k s).steady = s.steady := by
  induction k generalizing s with
  | zero => rfl
  | succ k ih =>
    simp only [State.pumpWork]
    (repeat' split) <;> first | rfl | (next t h => exact (ih t).trans (State.workStep_steady _ _ _ _ _ _ h))

@[simp] theorem State.pumpOnce_steady (s : State) (n : Fin 32) : (State.pumpOnce s n).steady = s.steady := by
  simp only [State.pumpOnce]
  exact (foldl_steady _ (fun s x => State.pumpWork_steady _ _ _ _) _ _).trans (by simp)

@[simp] theorem State.pumpWorks_steady (s : State) (n : Fin 32) : (State.pumpWorks s n).steady = s.steady := by
  simp only [State.pumpWorks]; (repeat' split) <;> simp

theorem State.startWork_steady (s : State) (x : Next) (f : InFlight) (w : Work) (told : State → State) (h : ∀ t, (told t).steady = t.steady) :
    (State.startWork s x f w told).steady = s.steady := by
  simp [State.startWork, h]

@[simp] theorem State.tellAligned_steady (x : Next) (aligned : Bool) (s : State) : (State.tellAligned x aligned s).steady = s.steady := by
  simp only [State.tellAligned]; (repeat' split) <;> simp

@[simp] theorem State.startMove_steady (s : State) (x : Next) (p : MovePlan × Bool) : (State.startMove s x p).steady = s.steady := by
  simp only [State.startMove]
  split
  · simp
  · exact State.startWork_steady _ _ _ _ _ fun t => by simp
  · simp

@[simp] theorem State.startGather_steady (s : State) (x : Next) (p : GatherPlan × Bool) : (State.startGather s x p).steady = s.steady := by
  simp only [State.startGather]
  split
  · simp
  · split
    all_goals exact State.startWork_steady _ _ _ _ _ fun t => by (split <;> simp)

@[simp] theorem State.startScatter_steady (s : State) (x : Next) (p : ScatterPlan × Bool) : (State.startScatter s x p).steady = s.steady := by
  simp only [State.startScatter]
  split
  · simp
  · exact State.startWork_steady _ _ _ _ _ fun t => by simp

theorem State.writeThenWork_steady (s : State) (x : Next) (l : List (Bool × Nat × List Byte)) (go : State → State) (hg : ∀ t, (go t).steady = t.steady) :
    (State.writeThenWork s x l go).steady = s.steady := by
  simp only [State.writeThenWork]
  split
  all_goals next h => simp [hg, State.settleWrites_steady_of h]

@[simp] theorem State.startSettle_steady (s : State) (x : Next) (p : SettlePlan) : (State.startSettle s x p).steady = s.steady := by
  simp only [State.startSettle]
  exact (State.writeThenWork_steady _ _ _ _ fun t => by simp).trans (by split <;> simp)

@[simp] theorem State.startUpdate_steady (s : State) (det : List Detection) (x : Next) (p : UpdFields × UpdIssue) :
    (State.startUpdate s det x p).steady = s.steady := by
  simp only [State.startUpdate]
  split
  · exact (State.writeThenWork_steady _ _ _ _ fun t => by simp).trans (by simp)
  · exact (State.writeThenWork_steady _ _ _ _ fun t => by simp).trans (by simp)
  · exact (State.writeThenWork_steady _ _ _ _ fun t => by simp).trans (by split <;> simp)

theorem State.issueMode_steady {α : Type} (s : State) (ops : List Op) (check : State → Next → Except Half α) (run : Next → α → State)
    (h : ∀ x a, (run x a).steady = s.steady) : (State.issueMode s ops check run).steady = s.steady := by
  simp only [State.issueMode]
  (repeat' split) <;> simp [State.issueWith_steady, h]

@[simp] theorem State.startNorm_steady (s : State) (x : Next) (r : NormRun) : (State.startNorm s x r).steady = s.steady := by
  simp only [State.startNorm]
  split
  · simp
  · exact State.startWork_steady _ _ _ _ _ fun t => by simp

@[simp] theorem State.rosterBeat_steady (s : State) : (State.rosterBeat s).steady = s.steady := by
  simp only [State.rosterBeat]; (repeat' split) <;> simp

@[simp] theorem State.heldEnds_steady (s : State) (n : Fin 32) (r : Report) : (State.heldEnds s n r).steady = s.steady := by
  simp only [State.heldEnds]; (repeat' split) <;> simp

@[simp] theorem State.unitGoesOn_steady (s : State) (r : Report) : (State.unitGoesOn s r).steady = s.steady := by
  simp only [State.unitGoesOn]; (repeat' split) <;> simp

@[simp] theorem State.releaseHeld_steady (s : State) : (State.releaseHeld s).steady = s.steady := by
  simp only [State.releaseHeld]
  split
  · rfl
  · rw [State.unitGoesOn_steady]
    split
    · rfl
    · rw [State.heldEnds_steady]; rfl

@[simp] theorem State.protocolError_steady (s : State) (port : Fin 32) (tag : Byte) : (State.protocolError s port tag).steady = s.steady := by
  simp [State.protocolError]

@[simp] theorem State.requestEvent_steady (s : State) (code : Half) (port : Fin 32) (o : Origin) (tag : Byte) :
    (State.requestEvent s code port o tag).steady = s.steady := by
  simp only [State.requestEvent]; split <;> simp

@[simp] theorem State.fillBeat_steady (s : State) (beat : Nat) (data : List Byte) (bad : Bool) (x : Fill) :
    (State.fillBeat s beat data bad x).steady = s.steady := by
  simp only [State.fillBeat]; split <;> simp

@[simp] theorem State.deposit_steady (s : State) (far : Bool) (beat : Nat) (data : List Byte) (bad poison : Bool) :
    (State.deposit s far beat data bad poison).steady = s.steady := by rfl

@[simp] theorem State.noteBeat_steady (s : State) (q : Req) (beat : Nat) (bad : Bool) : (State.noteBeat s q beat bad).steady = s.steady := by
  simp only [State.noteBeat]; (repeat' split) <;> simp

@[simp] theorem State.afterRead_steady (s : State) (q : Req) : (State.afterRead s q).steady = s.steady := by
  simp only [State.afterRead]; (repeat' split) <;> simp

@[simp] theorem State.bootBeatRead_steady (s : State) (q : Req) (data : List Byte) : (State.bootBeatRead s q data).steady = s.steady := by
  have h (t : State) (n : Nat) : (t.modBoot fun b => { b with unread := n }).steady = t.steady := rfl
  have r (t : State) (a n : Nat) : (t.bootRead a n).steady = t.steady := rfl
  simp only [State.bootBeatRead]
  (repeat' split) <;> simp [h, r]

@[simp] theorem State.writeFailed_steady (s : State) (port : Fin 32) (q : Req) (tag : Byte) : (State.writeFailed s port q tag).steady = s.steady := by
  simp only [State.writeFailed]; (repeat' split) <;> simp

@[simp] theorem State.afterWrite_steady (s : State) (o : Origin) : (State.afterWrite s o).steady = s.steady := by
  simp only [State.afterWrite]; (repeat' split) <;> simp

end Sys2Proof.Machine
end

