-- ==== Sys2Proof/Tests/Slice0.lean ====
section
/-! SUPPORT. Tests on small states: for every statement with hypotheses, a state and operands that meet them, with the effect of the
command where the kernel evaluates it in a moment; refusals of ill-formed commands; and worked values. Expected values are those of
the spec's rules and tables, worked out by hand. -/

namespace Sys2Proof.Tests
open Sys2Proof Sys2Proof.Machine

/-- Words of a given width, joined. -/
def le (l : List (Nat × Nat)) : List Byte := (l.map fun x => leBytes x.1 x.2).flatten

/-- A structure: grade 128, every shape, period 1000, 16 slots of each class, one tile port order, rings of one member. -/
def structure0 : List Byte :=
  le [(8, 0), (8, 0), (1, 128), (1, 127), (2, 1000), (1, 12), (3, 0), (4, 0x10101010), (1, 4), (1, 8), (1, 16), (1, 0)]
    ++ (List.range 32).map (BitVec.ofNat 8) ++ List.replicate 512 0
    ++ le [(4, 7), (4, 9), (1, 1), (3, 0), (1, 1), (3, 0), (2, 7)] ++ List.replicate 254 0xFF ++ le [(2, 7)] ++ List.replicate 254 0xFF

def defaults0 : List Byte := List.replicate 32 0 ++ le [(4, 0), (2, 4), (2, 100), (1, 16), (7, 0)]
def operating0 : List Byte := le [(2, 4000), (1, 20), (5, 0)] ++ List.replicate 32 0 ++ le [(1, 105), (7, 0)]

def cut0 : Cut where
  isApplied := true
  structureBytes := structure0
  jobDefaults := defaults0
  operating := operating0
  mcFirmware := leBytes 16 0
  seqFirmware := leBytes 16 0
  serial := 5
  sealOnBoot := true

/-- The block in READY, sealed, at beat 100, with every unit in service. -/
def ready0 : State :=
  { State.reset with
    mgmt := { Mgmt.reset with
      pins := { Pins.reset with coldN := true, swState := 0xFFFFFFFF }
      boot := { Boot.reset with cutState := .ready, step := 11 }
      cut := cut0
      rwl := { Rwl.reset with shapeMenu := 127, polishPeriod := 4000, isSealed := true }
      beat := { Beat.reset with observed := 100, running := true }
      lead := { pair := 0, valid := true } }
    cores := Vector.replicate 32 { Core.reset with inService := true, depth := 8 }
    pairs := Vector.replicate 8 { Pair.reset with state := .running } }

def desc0 : JobDesc where
  latency := false
  exclusive := false
  windows := [{ base := 0x100000, size := 0x2000000, far := false, rw := true }]
  descTable := 0x110000
  descCount := 16
  cheapWait := 0
  cheapBase := 0
  cheapCount := 0
  saveBase := 0x10000000
  saveFar := false
  ringA := false
  ringB := false
  overrideMask := 0
  overrides := []
  exclA := 0
  exclB := 0
  planBase := 0x100000
  baseStep := 1
  completion := 0x101000
  statusBase := 0x102000
  cookie := 3

def job0 : Job where
  client := 2
  desc := desc0
  startBeat := 90
  state := .running
  saves := 0
  done := 0
  firstFault := 0
  faultIndex := 0
  faultLabel := 0
  ends := []
  fetchPos := 0
  chunks := []
  flight := []
  roster := none
  saved := none
  chanSeq := Vector.replicate 4 none
  chanSteps := []
  ended := false
  reading := none
  ask := Ask.none
  belows := []

/-- Job 0 runs, with a plan that holds one command. -/
def withJob (j : Job) (s : State) : State :=
  { s with jobs := s.jobs.set 0 (some j), sched := { s.sched with run := some 0 } }

def withCmd (b : List Byte) (s : State) : State := withJob { job0 with chunks := [{ number := 0, bytes := b ++ List.replicate (64 - b.length) 0 }] } s

def markCmd : List Byte := le [(2, 9), (2, 0), (4, 77), (8, 0x103000), (8, 0xAB), (1, 1)]

def after (o : Host.Outcome State Fault Refusal) (p : State → Bool) : Bool := match o with | .next t => p t | _ => false

set_option maxRecDepth 10000
set_option Elab.async false

/-! ### The whole block, resets and boot -/

def at_ (step : BitVec 4) (s : State) : State :=
  { s with mgmt := { s.mgmt with boot := { Boot.reset with step := step }, cut := Cut.reset, rwl := Rwl.reset } }

def boot3 : State := at_ 3 ready0
def boot4 : State := at_ 4 ready0

/-- The cut applied and not sealed, every facet in service. -/
def applied0 : State :=
  { ready0 with mgmt := { ready0.mgmt with boot := { ready0.mgmt.boot with cutState := .applied }, rwl := { ready0.mgmt.rwl with isSealed := false } } }

theorem test_step_takes_front :
    after (step { ready0 with pending := [.beatStall, .droopRecoveryStep] }) (fun t => t.pending == [.droopRecoveryStep] && t.mgmt.beat.stalled)
      = true := by decide +kernel

theorem test_step_idles : step State.reset = .next State.reset := rfl

theorem witness_seal_keeps_narrowing :
    (ready0.mgmt.rwl.isSealed && ready0.mgmt.pins.coldN && !mayReset (.rwlNarrowWrite 0x80 1000)
      && after (exec (.rwlNarrowWrite 0x80 1000) ready0) fun t => t.mgmt.rwl == ready0.mgmt.rwl && t.mgmt.ra.error) = true := by decide +kernel

theorem witness_lost_units : after (exec (.seqLockstepMismatch 3 true true false none) ready0) (fun t =>
    (t.pairs[(3 : Fin 8)]).lost && t.facetFenced 12 && !t.facetFenced 11 && !(t.cores[(11 : Fin 32)]).inService) = true := by decide +kernel

theorem witness_work : (isWork .mark && after (exec .mark (withCmd markCmd ready0)) fun t =>
    decide (t.steady = (withCmd markCmd ready0).steady)) = true := by decide +kernel

theorem test_power_on : after (exec .powerOnReset (withCmd markCmd ready0)) (fun t =>
    !t.mgmt.pins.coldN && t.mgmt.boot == Boot.reset && t.mgmt.cause.kind == 0 && (t.jobs.toList.all (·.isNone))) = true := by decide +kernel

theorem witness_cold_assert : (ready0.mgmt.pins.coldN && after (exec .coldResetAssert ready0) fun t =>
    !t.mgmt.pins.coldN && !t.mgmt.cut.isApplied && t.mgmt.cause.kind == 1 && !t.mgmt.cause.coldByRegister) = true := by decide +kernel

theorem witness_cold_release : (!State.reset.mgmt.pins.coldN && State.reset.mgmt.pins.wrapper == .bypass && !State.reset.mgmt.pins.scanned && after (exec (.coldResetRelease 5 17 true) State.reset) fun t =>
    t.mgmt.boot.step == 3 && t.mgmt.pins.rpMode == 5 && t.mgmt.pins.arrayNominal == 17 && t.mgmt.pins.swState == 0xFFFFFFFF
      && (t.tilePorts[(0 : Fin 32)]).reqs.map (fun q => (q.addr, q.beats, q.ro, q.window)) == [(0, 1, true, 0xF)]) = true := by decide +kernel

/-- The block after reset, with a wrapper instruction loaded, and after a scan. -/
def wrapped (w : WrapperInst) (scanned : Bool) : State :=
  { State.reset with mgmt := { State.reset.mgmt with pins := { State.reset.mgmt.pins with wrapper := w, scanned := scanned } } }
theorem witness_cold_release_waits : ([wrapped (.extest []) false, wrapped .bypass true].all fun s =>
    after (exec (.coldResetRelease 5 17 true) s) fun t => t.mgmt.boot.held == some true && t.mgmt.pins.coldN && t.mgmt.boot.step == 1) = true := by
  decide +kernel

theorem witness_cold_release_dead : after (exec (.coldResetRelease 0 0 false) State.reset) (fun t => t.mgmt.boot.dead && !t.raServed) = true := by
  decide +kernel

theorem witness_block_reset_cold : (ready0.raServed && !ready0.booting && after (exec (.blockResetCold true) ready0) fun t =>
    t.mgmt.cause.coldByRegister && t.mgmt.boot.step == 3 && t.mgmt.pins.coldN && !t.mgmt.rwl.isSealed) = true := by decide +kernel

theorem witness_warm : (ready0.raServed && !ready0.booting && ready0.mgmt.boot.cutState != .failed && !ready0.warmQuiescing
    && after (exec .blockResetWarm ready0) fun t => t.mgmt.quiesce.isSome && t.mgmt.cause.kind == 2 && t.mgmt.cause.count == 1) = true := by
  decide +kernel

theorem witness_job_reset : ((withCmd markCmd ready0).running.isSome && !(withCmd markCmd ready0).resetQuiescing
    && after (exec .blockResetJob (withCmd markCmd ready0)) fun t => t.mgmt.cause.kind == 3 && !t.mgmt.cause.jobByFault && t.mgmt.quiesce.isSome)
      = true := by decide +kernel

def failed0 : State := { ready0 with mgmt := { ready0.mgmt with boot := { ready0.mgmt.boot with cutState := .failed } } }

theorem witness_reset_discarded : (failed0.raServed && (after (exec .blockResetWarm failed0) fun t =>
      t.log.queue.map (fun r => (r.code, r.detail)) == [(0x070F, 2)] && t.mgmt.quiesce.isNone)
    && after (exec .blockResetJob failed0) fun t => t.log.queue.map (fun r => (r.code, r.detail)) == [(0x070F, 3)]) = true := by decide +kernel

def quiescing (k : QuiesceKind) (s : State) : State := { s with mgmt := { s.mgmt with quiesce := some { kind := k, since := 36, reported := false } } }

theorem witness_warm_ends : (!(quiescing .warm ready0).quiesceOpen .warm && after (exec (.quiesceComplete true) (quiescing .warm ready0)) fun t =>
    t.mgmt.boot.step == 3 && t.mgmt.boot.warm && t.mgmt.rwl.isSealed && t.mgmt.cut.isApplied && t.mgmt.quiesce.isNone) = true := by decide +kernel

/-- A job with a fault behind it: its record holds no free value. -/
def jobF : Job := { job0 with firstFault := 0x0107, faultIndex := 4 }

theorem witness_job_ends : after (exec (.quiesceComplete true) (quiescing .job (withJob jobF ready0))) (fun t =>
    t.ext.near.field 0x101010 2 == 0x0107 && t.ext.near.field 0x101038 8 == 3 && t.ext.near.field 0x101000 8 == 3 && (t.jobs.toList.all (·.isNone)) && t.mgmt.irqStatus == 1) = true := by
  decide +kernel

/-- A block write that awaits its response. -/
def busyPort : State := ready0.blockWrite 0x5000 [1]

theorem witness_quiesce_timeout : ((quiescing .warm busyPort).quiesceOpen .warm && (quiescing .warm busyPort).reached (36 + 64)
    && after (exec .quiesceTimeout (quiescing .warm busyPort)) fun t =>
      t.log.queue.map (·.code) == [0x070E] && t.mgmt.irqStatus == 0x100000) = true := by decide +kernel
/-! ### Boot -/

/-- A signature that verifies over a digest of zeros: key and nonce 1. -/
def sigOne : List Byte := beBytes 48 (p384Gx % p384N) ++ beBytes 48 (p384Gx % p384N)
def keyOne : List Byte := beBytes 48 p384Gx ++ beBytes 48 p384Gy

/-- The structure section of the image: as `structure0`, with two rings of 128 members. -/
def structure1 : List Byte :=
  structure0.take 0x240 ++ le [(4, 7), (4, 9), (1, 128), (1, 0), (1, 0), (1, 1), (1, 128), (1, 0), (1, 2), (1, 3), (2, 7)]
    ++ List.replicate 254 1 ++ le [(2, 7)] ++ List.replicate 254 1

/-- A cut image with the five sections. -/
def image0 : List Byte :=
  let body := structure1 ++ defaults0 ++ operating0 ++ List.replicate 32 0
  le [(4, 0x54434C53), (2, 3), (2, 128), (4, 128 + 0x4D0 + 192), (2, 9), (1, 1), (1, 2), (8, 5), (2, 5), (2, 1), (4, 0)]
    ++ le [(4, 1), (4, 0x80), (4, 0x450), (4, 0)] ++ le [(4, 2), (4, 0x4D0), (4, 0x30), (4, 0)] ++ le [(4, 3), (4, 0x500), (4, 0x30), (4, 0)]
    ++ le [(4, 4), (4, 0x530), (4, 0x10), (4, 0)] ++ le [(4, 5), (4, 0x540), (4, 0x10), (4, 0)] ++ List.replicate 16 0
    ++ body ++ keyOne ++ sigOne

def bootAt (n : BitVec 4) (im digest : List Byte) : State :=
  { at_ n ready0 with mgmt := { (at_ n ready0).mgmt with boot := { Boot.reset with step := n, image := im, digest := digest } } }

theorem test_image_size : image0.length = 128 + 0x4D0 + 192 := by decide +kernel

theorem witness_key_hash : (boot3.bootingAt 3 && after (exec (.keyHashReadDone (List.replicate 48 7) true) boot3) fun t =>
    t.mgmt.boot.step == 4 && t.mgmt.boot.keyHash == List.replicate 48 7
      && (t.tilePorts[(0 : Fin 32)]).reqs.map (fun q => (q.addr, q.beats)) == [(0x10000, 16)]) = true := by decide +kernel

theorem witness_image_read : (boot4.bootingAt 4 && headerOk image0 && after (exec (.cutImageReadDone image0 true) boot4) fun t =>
    t.mgmt.boot.step == 5 && t.mgmt.boot.image == image0) = true := by decide +kernel

theorem witness_hash_done :
    let s := bootAt 5 image0 []
    let u : State := { s with mgmt := { s.mgmt with boot := { s.mgmt.boot with keyHash := sha384 keyOne } } }
    (u.bootingAt 5 && after (exec .cutHashDone u) fun t => t.mgmt.boot.step == 6) = true := by
  decide +kernel

/-- SHA-384 of "abc" and CRC-32C of "123456789", from their standards. -/
theorem test_sha384_abc : beNat (sha384 [0x61, 0x62, 0x63]) =
    0xCB00753F45A35E8BB5A03D699AC65007272C32AB0EDED1631A8B605A43FF5BED8086072BA1E7CC2358BAECA134C825A7 := by decide +kernel
theorem test_crc32c_check : crc32c [0x31, 0x32, 0x33, 0x34, 0x35, 0x36, 0x37, 0x38, 0x39] = 0xE3069283 := by decide +kernel

def failsWith (o : Host.Outcome State Fault Refusal) (c : Half) : Bool :=
  after o fun t => t.mgmt.boot.cutState == .failed && t.mgmt.boot.fault == c && t.log.queue.map (·.code) == [c] && !t.mgmt.lead.valid

def failsLast (o : Host.Outcome State Fault Refusal) (c : Half) : Bool :=
  after o fun t => t.mgmt.boot.cutState == .failed && t.mgmt.boot.fault == c && (t.log.queue.getLast?.map (·.code)) == some c && !t.mgmt.lead.valid

theorem witness_boot_read_timeout : (failsWith (exec .bootReadTimeout boot3) 0x0701 && failsWith (exec .bootReadTimeout boot4) 0x0701) = true := by
  decide +kernel
theorem witness_boot_beat_timeout : ((at_ 9 ready0).bootingAt 9 && failsWith (exec .bootBeatTimeout (at_ 9 ready0)) 0x070B) = true := by decide +kernel
theorem witness_key_hash_fails : (failsWith (exec (.keyHashReadDone (List.replicate 48 0) true) boot3) 0x0702
    && failsWith (exec (.keyHashReadDone (List.replicate 48 0xFF) true) boot3) 0x0702
    && failsWith (exec (.keyHashReadDone [7] false) boot3) 0x0704) = true := by decide +kernel
theorem witness_image_fails : (!headerOk (0 :: image0) && failsWith (exec (.cutImageReadDone (0 :: image0) true) boot4) 0x0703
    && failsWith (exec (.cutImageReadDone image0 false) boot4) 0x0704) = true := by decide +kernel
theorem witness_hash_fails : ((bootAt 5 image0 []).bootingAt 5 && failsWith (exec .cutHashDone (bootAt 5 image0 [])) 0x0705) = true := by decide +kernel
theorem witness_signature_fails :
    let bad := image0.dropLast ++ [0]
    let s := bootAt 6 bad (List.replicate 48 0)
    (!ecdsaVerify (imageKey bad) (imageSig bad) s.mgmt.boot.digest && failsWith (exec .cutSignatureDone s) 0x0706) = true := by decide +kernel
theorem witness_sections_fail :
    let bad := image0.set 0x90 127
    let s := bootAt 6 bad (List.replicate 48 0)
    (ecdsaVerify (imageKey bad) (imageSig bad) s.mgmt.boot.digest && !sectionsOk bad && failsWith (exec .cutSignatureDone s) 0x0707) = true := by decide +kernel

def bootSig : State := bootAt 6 image0 (List.replicate 48 0)

/-- A warm boot at the signature step, of a block sealed under a structure with the given digest. -/
def sealedBoot (d : List Byte) : State :=
  { bootSig with mgmt := { bootSig.mgmt with
      boot := { bootSig.mgmt.boot with warm := true }
      rwl := { Rwl.reset with shapeMenu := 1, polishPeriod := 1000, isSealed := true, structDigest := d } } }

/-- A good signature over a good image. -/
theorem witness_signature : (bootSig.bootingAt 6 && ecdsaVerify (imageKey image0) (imageSig image0) bootSig.mgmt.boot.digest) = true := by
  decide +kernel
theorem structure1_ok : structureOk structure1 = true := by decide +kernel
theorem image0_structure : sectionBytes image0 1 = structure1 := by decide +kernel
theorem image0_rest : (sectionTableOk image0 && jobDefaultsOk (sectionBytes image0 2) 127 && operatingOk (sectionBytes image0 3)
    && firmwareOk (sectionBytes image0 4) (128 * 1024) (96 * 1024) && firmwareOk (sectionBytes image0 5) (256 * 1024) (64 * 1024)) = true := by
  decide +kernel
theorem witness_cut_applies_warm : (sealedBoot (sha384 (sectionBytes image0 1))).mgmt.boot.warm = true
    ∧ (sealedBoot (sha384 (sectionBytes image0 1))).mgmt.rwl.structDigest = sha384 (sectionBytes image0 1) := ⟨rfl, rfl⟩
theorem witness_digest_fails : (sealedBoot []).bootingAt 6 = true ∧ sha384 (sectionBytes image0 1) ≠ (sealedBoot []).mgmt.rwl.structDigest := by
  decide +kernel

/-- Boot with the cut applied, at a later step. -/
def bootCut (n : BitVec 4) (warm : Bool) : State :=
  { ready0 with
    mgmt := { ready0.mgmt with boot := { Boot.reset with step := n, warm := warm }, rwl := { ready0.mgmt.rwl with isSealed := warm } }
    pairs := Vector.replicate 8 { Pair.reset with state := .selfCheck } }

theorem witness_self_check : ((bootCut 8 false).bootingAt 8 && after (exec (.seqSelfCheckDone 0x81) (bootCut 8 false)) fun t =>
    t.mgmt.boot.step == 9 && t.leadIx == 1 && t.mgmt.lead.valid && (t.pairs[(7 : Fin 8)]).lost && !(t.cores[(8 : Fin 32)]).inService
      && (t.cores[(9 : Fin 32)]).inService && t.facetFenced 35 && (t.cores[(9 : Fin 32)]).depth == 16) = true := by decide +kernel
theorem witness_boot_polish : after (exec (.bootPolishDone [(5, 2)]) (bootCut 10 false)) (fun t =>
    t.mgmt.boot.cutState == .ready && t.mgmt.rwl.isSealed && t.facetFenced 5
      && (t.facets[(4 : Fin 128)]).counters.polish == 1 && t.mgmt.irqStatus.getLsbD 8) = true := by decide +kernel
theorem witness_boot_polish_warm : after (exec (.bootPolishDone []) (bootCut 10 true)) (fun t =>
    t.mgmt.boot.cutState == .ready && t.mgmt.rwl == (bootCut 10 true).mgmt.rwl) = true := by decide +kernel
theorem witness_boot_polish_applied :
    let s := bootCut 10 false
    let u : State := { s with mgmt := { s.mgmt with cut := { cut0 with sealOnBoot := false } } }
    after (exec (.bootPolishDone []) u) (fun t => t.mgmt.boot.cutState == .applied && !t.mgmt.rwl.isSealed) = true := by decide +kernel
/-- The other codes of Table 02-8: no pair passes, a strobe off the period, no facet left. -/
def beatsAt (k : Nat) (bad : Bool) : State :=
  let s := bootCut 9 false
  { s with mgmt := { s.mgmt with boot := { s.mgmt.boot with beats := k, beatBad := bad } } }
theorem witness_boot_stops : (failsLast (exec (.seqSelfCheckDone 0xFF) (bootCut 8 false)) 0x0709
    && (beatsAt 2 true).bootingAt 9 && !(beatsAt 2 true).onPeriod 1 && failsLast (exec (.beatStrobe 101 1000) (beatsAt 2 true)) 0x070A
    && failsLast (exec (.beatStrobe 101 1) (beatsAt 2 false)) 0x070A
    && (after (exec (.beatStrobe 101 1) (beatsAt 1 false)) fun t => t.mgmt.boot.beats == 2 && t.mgmt.boot.beatBad)
    && (bootCut 10 false).bootingAt 10
    && failsLast (exec (.bootPolishDone (allFacets.map fun g => (g, 1))) (bootCut 10 false)) 0x070C) = true := by decide +kernel

/-! ### Registers -/

def raOk (t : State) : Bool := !t.mgmt.ra.error
def raBad (t : State) : Bool := t.mgmt.ra.error && t.mgmt.ra.rdata == 0

theorem witness_version : (ready0.raServed && after (exec (.pairLoRead 0) ready0) fun t => t.mgmt.ra.rdata == 0x00090102 && raOk t) = true := by
  decide +kernel

/-- BEAT_COUNT_LO and _HI at 2^32 + 5, with a strobe between the reads. -/
def beat5 : State := { ready0 with mgmt := { ready0.mgmt with beat := { ready0.mgmt.beat with observed := 0x100000005 } } }
theorem witness_pair_read : (ready0.raServed && (ready0.readPort 0).isSome && isLoReg 0x90 && after (exec (.pairLoRead 0x90) beat5) fun t =>
    t.mgmt.ra.rdata == 5 && after (exec (.beatStrobe 0x200000000 1000) t) fun u => u.mgmt.ra.latched == t.mgmt.ra.latched
      && after (exec (.pairLoRead 0x94) u) fun w => w.mgmt.ra.rdata == 1 && raOk w) = true := by decide +kernel

theorem witness_stray_read : ([0x02, 0x8800, 0x240000, 0x218000, 0x105000, 0x200034].all fun a => after (exec (.pairLoRead a) ready0) raBad) = true := by
  decide +kernel
theorem witness_stray_write : (after (exec (.registerWrite 0x00 5) ready0) raBad && after (exec (.rwlNarrowWrite 0x128 5) ready0) raBad
    && after (exec (.registerWrite 0x84 0) { ready0 with mgmt := { ready0.mgmt with boot := { ready0.mgmt.boot with restarting := true } } }) raBad
    && !State.reset.functional && after (exec (.registerWrite 0x84 0) State.reset) raOk) = true := by decide +kernel

theorem witness_rwl_refuses : (after (exec (.rwlNarrowWrite 0x1C 1) ready0) raBad && after (exec (.rwlNarrowWrite 0x1C 2) applied0) raBad
    && after (exec (.registerWrite 0x80 4001) applied0) raBad
    && (let s : State := { applied0 with mgmt := { applied0.mgmt with rwl := { applied0.mgmt.rwl with facetDisable := 3, shapeMenu := 1 } } }
      after (exec (.rwlNarrowWrite 0x60 2) s) raBad && after (exec (.rwlNarrowWrite 0x1C 3) s) raBad && s.gradeNow == 126
        && after (exec (.rwlNarrowWrite 0x08 1) s) raBad && after (exec .cutSeal s) raBad)) = true := by decide +kernel

theorem witness_rwl_narrows : (applied0.raServed && applied0.mgmt.boot.cutState == .applied
    && (after (exec (.rwlNarrowWrite 0x6C 0xF0000000) applied0) fun t => raOk t && t.facetDisabled 127 && !t.facetDisabled 123
      && t.mgmt.pins.swState == 0x7FFFFFFF)
    && (after (exec (.rwlNarrowWrite 0x1C 1) applied0) fun t => raOk t && t.mgmt.rwl.shapeMenu == 1)
    && after (exec (.rwlNarrowWrite 0x80 1000) applied0) fun t => raOk t && t.mgmt.rwl.polishPeriod == 1000) = true := by decide +kernel

theorem witness_cut_seals : (applied0.gradeNow == 128 && after (exec .cutSeal applied0) fun t => raOk t && t.mgmt.rwl.isSealed
    && t.mgmt.boot.cutState == .ready && t.mgmt.irqStatus == 0x100 && t.mgmt.beat.readyBeat == 100) = true := by decide +kernel

theorem witness_polish_control : ((after (exec (.polishDisable true false) ready0) fun t => t.mgmt.polish.disable && t.guaranteeVoid
      && t.log.queue.map (·.code) == [0x030A])
    && (after (exec (.polishDisable false true) ready0) fun t => !t.mgmt.polish.disable && t.log.queue.isEmpty)
    && after (exec (.polishNow false true) ready0) fun t => (t.facets[(9 : Fin 128)]).immediate && (t.facets[(9 : Fin 128)]).polishing) = true := by
  decide +kernel

theorem witness_polish_failed : after (exec (.polishNow false true) failed0) (fun t => t.facets == failed0.facets) = true := by decide +kernel

theorem witness_adapt_bounds : (ready0.depthMax == 16 && (after (exec (.adaptBoundsWrite 0x00641110) ready0) fun t =>
      raOk t && t.mgmt.bounds == { prefetchMin := 16, dutyFloor := 1, stretchMax := 1, thermalTarget := 100 })
    && ([0x00641111, 0x00641100, 0x00641010, 0x00640110, 0x00641910, 0x003B1110].all fun v => after (exec (.adaptBoundsWrite v) ready0) raBad)) = true := by
  decide +kernel

theorem witness_operator_writes :
    let s : State := { ready0 with mgmt := { ready0.mgmt with irqStatus := 0x103 } }
    ((after (exec (.irqStatusClear 0x101) s) fun t => t.mgmt.irqStatus == 2)
      && (after (exec (.registerWrite 0x104 0xFFFFFFFF) s) fun t => t.mgmt.irqEnable == 0x001F0303)
      && after (exec (.registerWrite 0x114 2) s) fun t => after (exec (.registerWrite 0x110 0x12345678) t) fun u =>
        u.mgmt.submitBase == 0x212345000 && after (exec (.registerWrite 0x110 0x12345678) u) fun w => w.mgmt.submitBase == 0x12345000) = true := by
  decide +kernel

/-- Flags of RELIABILITY_STATUS and BEAT_STATUS that a write of 1 clears. -/
theorem witness_status_writes :
    let s : State := { ready0 with mgmt := { ready0.mgmt with
      polish := { ready0.mgmt.polish with tripSeen := true, droopExceeded := true }
      beat := { ready0.mgmt.beat with jumped := true, ignored := true, offPeriod := true } } }
    (s.raServed && s.guaranteeVoid && (after (exec (.registerWrite 0x88 0x8) s) fun t => !t.mgmt.polish.tripSeen && t.mgmt.polish.droopExceeded && t.guaranteeVoid)
      && (after (exec (.registerWrite 0x88 0x18) s) fun t => !t.guaranteeVoid)
      && after (exec (.registerWrite 0x98 0x14) s) fun t => !t.mgmt.beat.jumped && t.mgmt.beat.ignored && !t.mgmt.beat.offPeriod) = true := by decide +kernel

/-- Job 1 waits, behind the running job 0. -/
def twoJobs : State := { withJob job0 ready0 with jobs := (withJob job0 ready0).jobs.set 1 (some { jobF with client := 3, state := .admitted }) }

theorem witness_job_abort : (!ready0.isAdmitted 1 && after (exec (.jobAbort 1) ready0) raBad
    && (after (exec (.jobAbort 1) twoJobs) fun t => raOk t && (t.jobs[1]).isNone && (t.jobs[0]).isSome && t.ext.near.field 0x101038 8 == 5
      && t.log.queue.map (·.code) == [0x060D] && (t.clients[(3 : Fin 256)]).completed == 1)
    && (after (exec (.jobAbort 1) (quiescing .warm twoJobs)) fun t => raOk t && (t.jobs[1]).isNone && t.ext.near.field 0x101038 8 == 5)
    && after (exec (.jobAbort 0) twoJobs) fun t => raOk t && t.mgmt.quiesce.isSome && (t.jobs[0]).isSome) = true := by decide +kernel

/-- A log of one record, and a report that waits. -/
def logged : State :=
  let r := ready0.report 0x0312 true .none .seqPair 3 7 8 9
  { ready0 with log := { Log.reset with records := [⟨4, r⟩], count := 5, queue := [{ r with code := 0x030A, fault := false, svc := true }] } }

theorem witness_incl_sel : ((after (exec (.inclSelWrite 4) logged) fun t => t.log.selHeld && t.log.data.getD 0 0 == 4 && t.log.data.getD 7 1 == 9)
    && (after (exec (.inclSelWrite 5) logged) fun t => !t.log.selHeld && t.log.data == List.replicate 8 0)
    && after (exec (.inclSelWrite 3) logged) fun t => !t.log.selHeld) = true := by decide +kernel
theorem witness_record_written : (logged.mcRuns && after (exec .inclusionRecordWrite logged) fun t =>
    t.log.count == 6 && t.log.records.map (·.seq) == [4, 5] && t.log.queue.isEmpty && t.mgmt.irqStatus == 0x20200) = true := by decide +kernel

/-! ### Beats and health -/

theorem witness_beats : (ready0.functional && (after (exec (.beatStrobe 101 1000) ready0) fun t => t.mgmt.beat.observed == 101 && !t.mgmt.beat.jumped)
    && (after (exec (.beatStrobe 103 3000) ready0) fun t => t.mgmt.beat.jumped && t.log.queue.any fun r => r.code == 0x0810)
    && (after (exec (.beatStrobe 100 1000) ready0) fun t => t.mgmt.beat.ignored && t.mgmt.beat.observed == 100 && t.log.queue.map (·.code) == [0x0811])
    && (let s : State := { ready0 with mgmt := { ready0.mgmt with beat := { Beat.reset with observed := 0 } } }
      (after (exec (.beatStrobe 3 1000) s) fun t => t.mgmt.beat.jumped && t.log.queue.any fun r => r.code == 0x0810)
        && after (exec (.beatStrobe 0 1000) s) fun t => t.mgmt.beat.ignored && t.log.queue.map (·.code) == [0x0811])
    && after (exec .beatStall ready0) fun t => t.mgmt.beat.stalled && t.mgmt.irqStatus == 0x80000) = true := by decide +kernel

def facetWith (g : Fin 128) (f : Facet → Facet) (s : State) : State := s.modFacet g f

theorem witness_polish_steps :
    let s (k : BitVec 6) (rep : Bool) := facetWith 7 (fun f => { f with polishing := true, step := k, repeating := rep }) ready0
    (ready0.facetUp 7 && !ready0.facetBusy 7 && !ready0.passWaits 7 && ready0.mgmt.polish.steal && 0 < ready0.dutyInForce
      && (after (exec (.polishStealStep 7) ready0) fun t => (t.facets[(7 : Fin 128)]).polishing)
      && (after (exec (.polishStepEnd 7 true) (s 58 false)) fun t => (t.facets[(7 : Fin 128)]).step == 59)
      && (after (exec (.polishStepEnd 7 true) (s 59 true)) fun t => (t.facets[(7 : Fin 128)]).counters.polish == 1 && t.log.queue.map (·.code) == [0x0308])
      && (after (exec (.polishStepEnd 7 false) (s 9 false)) fun t => (t.facets[(7 : Fin 128)]).repeating && (t.facets[(7 : Fin 128)]).failStep == 10)
      && after (exec (.polishStepEnd 7 false) (s 9 true)) fun t => t.facetFenced 7 && t.mgmt.pins.svcReplace) = true := by decide +kernel

/-- The slot of core `c` at the given wheel position closes, with facet 0 of the core polished. -/
def slotState : State :=
  facetWith 8 (fun f => { f with polished := true }) { ready0 with mgmt := { ready0.mgmt with
    beat := { ready0.mgmt.beat with observed := 4000 * 3 + 125 * 2 } } }
theorem witness_forced_slot : (slotState.slotReached 2 && after (exec (.polishForcedSlot 2) slotState) fun t =>
    !(t.facets[(8 : Fin 128)]).polished && !(t.facets[(8 : Fin 128)]).forced && (t.facets[(9 : Fin 128)]).forced) = true := by decide +kernel

theorem witness_pair_recovers : (after (exec (.seqLockstepMismatch 2 true false false none) ready0) fun t =>
    (t.pairs[(2 : Fin 8)]).lockstep == 1 && (t.pairs[(2 : Fin 8)]).parity == 1 && !(t.pairs[(2 : Fin 8)]).lost
      && t.log.queue.map (fun r => (r.code, r.fault)) == [(0x0310, true)]) = true := by decide +kernel

def ref0 : CmdRef := ⟨0, none⟩
/-- The running job has one command in flight. -/
def flight0 (op : Op) : InFlight where
  ref := ⟨0, none⟩
  op := op
  raw := []
  step := 1
  label := 77
  cheap := false
  nopre := false
  deferred := false
  descs := []
  writes := []
  target := 0
  prod := none
  mv := none
  events := []
  ending := none
  stages := []
  faulted := none
  relocate := none
  skipped := false
  ringStep := none
  work := none
  bad := []

def withFlight (l : List InFlight) : State := withJob { job0 with flight := l, fetchPos := 1 } ready0

def waiting0 : State := withFlight [flight0 .waitBeat]
theorem witness_pair_executing : (waiting0.functional && !waiting0.queueFull && match waiting0.jobs[0] with
    | some j => (match j.flightOf ⟨0, none⟩ with | some f => f.ending == none && f.faulted == none | none => false) | none => false) = true := by
  decide +kernel

theorem witness_controller : (ready0.functional && !ready0.mgmt.boot.dead && !ready0.mgmt.boot.stopped
    && (after (exec (.mcLockstepMismatch false) ready0) fun t => t.mgmt.boot.restarting && after (exec (.pairLoRead 0) t) raBad
      && after (exec .mcRestartDone t) fun u => u.log.mcRestarts == 1 && !u.mgmt.boot.restarting && u.log.queue.map (·.code) == [0x0311])
    && after (exec (.mcLockstepMismatch true) (withJob job0 ready0)) fun t => t.mgmt.boot.stopped && !t.canWork && t.mgmt.quiesce.isSome) = true := by
  decide +kernel

theorem witness_thermal : ((after (exec (.thermalSensorUpdate (List.replicate 31 100 ++ [580])) ready0) fun t => t.mgmt.loops.tripped && t.dutyInForce == 0
      && t.log.queue.map (·.code) == [0x030B])
    && after (exec (.thermalSensorUpdate (List.replicate 32 579)) ready0) fun t => !t.mgmt.loops.tripped && t.mgmt.pins.temps[31] == 579) = true := by
  decide +kernel

theorem witness_droop : ((after (exec (.droopDetect 1 false 4) ready0) fun t => t.mgmt.loops.stretch == 4 && !t.mgmt.loops.excursion && t.mgmt.pins.droopDet == 1)
    && (after (exec (.droopDetect 0 true 5) ready0) fun t => t.mgmt.loops.excursion && t.log.queue.map (·.code) == [0x030C]
      && after (exec .supplyRecovers t) fun u => !u.mgmt.loops.excursion && !u.mgmt.pins.droopIn
        && after (exec .droopRecoveryStep u) fun w => w.mgmt.loops.stretch + 1 == u.mgmt.loops.stretch)
    && (after (exec (.droopDetect 1 false 2) (let b := ready0.mgmt
        { ready0 with mgmt := { b with loops := { b.loops with stretch := 4, narrowed := true }, bounds := { b.bounds with stretchMax := 2 } } })) fun t =>
      t.mgmt.loops.stretch == 2 && !t.mgmt.loops.narrowed)
    && after (exec (.throttleInput 3) ready0) fun t => t.dutyInForce == 5) = true := by decide +kernel

theorem witness_depth : (ready0.ready && ready0.depthMax == 16 && (after (exec (.prefetchLoop 3 1 4) ready0) fun t =>
      (t.cores[(0 : Fin 32)]).depth == 9 && (t.cores[(1 : Fin 32)]).depth == 8 && (t.cores[(2 : Fin 32)]).depth == 7)
    && (after (exec (.wrapperInstruction (.extest [true])) ready0) fun t => t.mgmt.pins.wrapper == .bypass)
    && after (exec (.wrapperInstruction (.extest [true])) applied0) fun t => t.mgmt.pins.wrapper == .extest [true]) = true := by decide +kernel
theorem witness_wrapper :
    let s := facetWith 7 (fun f => { f with signature := 99, step := 59 }) applied0
    (applied0.mgmt.boot.held.isNone && (after (exec (.wrapperInstruction (.intestScan 0 1)) applied0) fun t => t.mgmt.pins.scanned && !t.functional)
      && (after (exec (.wrapperInstruction (.intestScan 0 2)) applied0) fun t => !t.mgmt.pins.scanned)
      && (after (exec (.wrapperInstruction (.ijtag [.readSignature 7])) s) fun t => t.mgmt.pins.wso == [99])
      && (after (exec (.wrapperInstruction (.ijtag [.singleStep 7])) s) fun t => (t.facets[(7 : Fin 128)]).step == 0)
      && (after (exec (.wrapperInstruction (.ijtag [.forceStep 7 20])) s) fun t => (t.facets[(7 : Fin 128)]).step == 20)
      && [true, false].all fun ok =>
        let u : State := { applied0 with mgmt := { applied0.mgmt with boot := { applied0.mgmt.boot with held := some ok } } }
        after (exec (.wrapperInstruction .bypass) u) fun t => t.mgmt.boot.dead == !ok && t.mgmt.boot.held.isNone) = true := by decide +kernel
/-! ### Jobs -/

/-- Bytes placed in tier 1. -/
def put (l : List (Nat × List Byte)) (s : State) : State :=
  { s with ext := { s.ext with near := l.foldl (fun m w => m.writeBytes w.1 w.2) s.ext.near } }

/-- Two members in each ring: this block at position 0 of ring 0, on ports 0 and 1, and of ring 1, on ports 2 and 3. -/
def structure2 : List Byte :=
  structure0.take 0x240 ++ le [(4, 7), (4, 9), (1, 2), (1, 0), (1, 0), (1, 1), (1, 2), (1, 0), (1, 2), (1, 3), (2, 7), (2, 8)]
    ++ List.replicate 252 0xFF ++ le [(2, 7), (2, 8)] ++ List.replicate 252 0xFF
def ready2 : State := { ready0 with mgmt := { ready0.mgmt with cut := { cut0 with structureBytes := structure2 } } }

/-- Client 2 has a ring at 0x3000 and an entry in it: the descriptor at 0x4000, with its windows and save area. -/
def entryOf (flags : Nat) : List Byte :=
  le [(8, 0x4000), (8, 0x100000), (4, 1), (4, flags), (8, 0x101000), (8, 0x102000), (8, 77), (16, 0)]
def descOf (rings : Nat) : List Byte :=
  le [(1, 0), (1, 0), (1, 1), (1, 0), (4, 500), (8, 0x110000), (2, 16), (2, 0), (4, 0), (8, 0), (8, 0x10000000), (4, 0), (1, 0), (1, rings), (2, 0)]
    ++ List.replicate 80 0 ++ le [(8, 0x100000), (4, 0x2000), (1, 2), (3, 0)] ++ List.replicate 112 0
def taking (rings flags : Nat) (waits : Bool) (s : State) : State :=
  let s1 : State := { s with mgmt := { s.mgmt with submitBase := 0x2000 } }
  { put [(0x2040, le [(8, 0x3000), (1, 3), (1, 1)]), (0x3000, leBytes 4 1), (0x4000, descOf rings)] s1 with
    clients := s.clients.set 2 { Client.reset with
      taken := some { entry := entryOf flags, since := 60, waiting := waits, base := 0x3000, sizeLog := 3, whole := true, bad := false } } }

def passesChecks (s : State) (e : List Byte) : Bool :=
  s.admits && ((s.clients[(2 : Fin 256)]).taken.any fun t => t.whole && !t.bad) && !s.reading (.client 2) && s.jobCount < 32
    && (s.admissionCode 2 (s.near (u64 e 0) 256) e (s.ext.poisoned false (u64 e 0) 256)).isNone

theorem witness_admission : (passesChecks (taking 0 0 false ready0) (entryOf 0) && after (exec (.jobAdmission 2 false 0) (taking 0 0 false ready0)) fun t =>
    match t.jobs[0] with
    | some j => j.client == 2 && j.desc.cookie == 77 && j.desc.planBase == 0x100000 && j.state == .running && t.sched.run == some 0
        && t.ext.near.field 0x3020 4 == 1 && (t.clients[(2 : Fin 256)]).submitted == 1
    | none => false) = true := by decide +kernel
theorem witness_admission_waits : (passesChecks (taking 1 0 false ready2) (entryOf 0) && !ready2.ringsReady { desc0 with ringA := true }
    && after (exec (.jobAdmission 2 false 0) (taking 1 0 false ready2)) fun t =>
    t.log.queue.map (·.code) == [0x0607] && t.jobCount == 0 && ((t.clients[(2 : Fin 256)]).taken.map (·.waiting)) == some true) = true := by decide +kernel
theorem witness_refused : ((taking 0 1 false ready0).admissionCode 2 (descOf 0) (entryOf 1) false == some 0x0601
    && after (exec (.jobAdmission 2 false 0) (taking 0 1 false ready0)) fun t =>
      t.jobCount == 0 && t.log.queue.map (·.code) == [0x0601]
        && (t.clients[(2 : Fin 256)]).completed == 1) = true := by decide +kernel
theorem witness_ring_wait : ((taking 1 0 true ready0).reached (60 + 500) == false
    && (let s : State := { taking 1 0 true ready0 with mgmt := { (taking 1 0 true ready0).mgmt with beat := { ready0.mgmt.beat with observed := 560 } } }
      s.admits && s.reached (60 + 500) && after (exec (.ringWaitExpiry 2) s) fun t =>
        t.log.queue.map (·.code) == [0x0603] && (t.clients[(2 : Fin 256)]).taken.isNone)) = true := by decide +kernel

/-- Job 0 runs since beat 0; job 1 waits. -/
def slicing (lat : Bool) : State :=
  let s := twoJobs
  { s with jobs := s.jobs.set 1 (some { jobF with client := 3, state := .admitted, desc := { jobF.desc with latency := lat } }) }
theorem witness_slice : ((slicing false).ready && (slicing false).reached ((slicing false).sched.sliceStart + BitVec.ofNat 64 ((slicing false).sliceBeats desc0))
    && (after (exec (.sliceEnd 0) (slicing false)) fun t => (t.sched.switch.map (·.phase)) == some .stopping)
    && (after (exec (.sliceEnd 0) (slicing true)) fun t => t.sched.switch.isNone && t.sched.sliceStart == 100)) = true := by decide +kernel

def switch0 (p : SwitchPhase) : Switch := { phase := p, cheapUntil := none, stopAt := none, cheap := false, saveBeat := 0, waits := [], cursor := 0, bad := false }
def switched (w : Switch) (s : State) : State := { s with sched := { s.sched with switch := some w } }

theorem witness_cheap_wait :
    let s := switched { switch0 .stopping with cheapUntil := some 100 } twoJobs
    ((s.switching .stopping).isSome && s.reached 100 && after (exec .cheapWaitExpiry s) fun t => (t.sched.switch.bind (·.cheapUntil)).isNone) = true := by
  decide +kernel
theorem witness_overrun :
    let s := switched (switch0 .stopping) (withFlight [{ flight0 .waitBeat with nopre := true, raw := [8, 4] }])
    ((s.switching .stopping).isSome && after (exec .nopreOverrun s) fun t => t.log.queue.map (fun r => (r.code, r.label)) == [(0x0608, 77)]) = true := by
  decide +kernel

/-- A byte in the stage buffer of core 2. -/
def stopping0 : State :=
  let s := switched (switch0 .stopping) (withFlight [flight0 .waitBeat])
  s.modCore 2 fun k => { k with sb := k.sb.writeBytes 0x1234 [7] }
theorem witness_save : (!(stopping0.outstanding fun q => q.origin == .save) && stopping0.memWf && (stopping0.switching .stopping).isSome && !stopping0.boundaryOpen 0 && !stopping0.jobTraffic 0) = true := by
  decide +kernel
theorem witness_save_cheap :
    let s := switched { switch0 .stopping with cheapUntil := some 900, stopAt := some 3 } (withFlight [])
    ((s.switching .stopping).isSome && s.memWf && !s.jobTraffic 0) = true := by decide +kernel

def saved0 (s : State) : Saved where
  ctl := Vector.ofFn fun c : Fin 32 => { slots := (s.cores[c]).slots, hampers := (s.cores[c]).hampers, tasks := (s.cores[c]).tasks }
  transit := []
  cores := s.coresUp
  facets := s.facetsUp
  pairs := 0xFF
  cheap := false
  slotLive := []
  accLive := []

/-- The running job of a switch in a phase, with what its save keeps, at a chunk of the save area. -/
def savingAt (p : SwitchPhase) (k : Nat) : State :=
  let s : State := { ready0 with mgmt := { ready0.mgmt with rwl := { ready0.mgmt.rwl with structDigest := List.replicate 48 9 } } }
  switched { switch0 p with cursor := k } (withJob { job0 with saved := some (saved0 ready0) } s)
def saving (p : SwitchPhase) : State := savingAt p 1
theorem witness_save_ends : (((savingAt .saving chunkCount).switching .saving).isSome && (savingAt .saving chunkCount).ext.near.wf
    && ((saved0 ready0).chunk { switch0 .saving with cursor := chunkCount }).isNone && !((savingAt .saving chunkCount).outstanding fun q => q.origin == .save)
    && (savingAt .saving chunkCount).mgmt.rwl.structDigest.length == 48) = true := by decide +kernel
theorem witness_save_fails : (((saving .saving).switching .saving).isSome && after (exec (.saveComplete true) (saving .saving)) fun t =>
    t.log.queue.map (·.code) == [0x0609] && t.mgmt.quiesce.isSome) = true := by decide +kernel
theorem witness_clear : (((saving .clearing).switching .clearing).isSome && !((saving .clearing).outstanding fun q => q.origin == .save)) = true := by
  decide +kernel
theorem witness_restore_header : (((saving .restoreHeader).switching .restoreHeader).isSome && !(saving .restoreHeader).reading .restore
    && !(saving .restoreHeader).queueFull
    && (after (exec (.restoreHeaderRead false) (saving .restoreHeader)) fun t => t.log.queue.map (·.code) == [0x060A] && t.mgmt.quiesce.isSome)
    && ((saving .restoring).switching .restoring).isSome && (saving .restoring).memWf
    && (after (exec (.restoreComplete false) (saving .restoring)) fun t => t.log.queue.map (·.code) == [0x060A])
    && (saved0 ready0).ctl.toList.all fun c => c.tasks.isEmpty) = true := by decide +kernel
/-- A header that the save has written. -/
theorem witness_header_matches :
    let s := savingAt .saving chunkCount
    (match s.jobs[0], s.sched.switch with
      | some j, some w => s.headerMatches (leBytes 8 1 ++ s.saveHeader j w (saved0 ready0)) && !s.headerMatches (leBytes 8 0 ++ s.saveHeader j w (saved0 ready0))
      | _, _ => false) = true := by decide +kernel
/-- The first chunk of tier 0 comes back, and the next one is read; or what came was bad. -/
theorem witness_restore_chunk :
    let s := put [(0x10000000 + chunkAt 640, [7])] (savingAt .restoring 641)
    let q : Req := { tag := none, write := false, addr := 0, beats := 8, got := 8, far := false, ro := false, window := 0, cls := 0, drain := false, settle := false
                     origin := .restore, timedOut := false, start := 0, data := [], bad := [], old := [], fills := [] }
    (s.memWf && (s.switching .restoring).isSome && (saved0 ready0).chunk { switch0 .restoring with cursor := 641 } == some 641
      && (let t := s.afterRead q
        t.imageByte (imageCore (chunkAt 640)) (imageLocal (chunkAt 640)) == 7 && (t.sched.switch.map (·.cursor)) == some 642)
      && (switched { switch0 .restoring with cursor := 641, bad := true } s |>.afterRead q).log.queue.map (·.code) == [0x060A]) = true := by decide +kernel
theorem witness_teardown :
    let s := withJob { job0 with state := .ending, ended := true } ready0
    (s.functional && !s.bucketsOf 0 && after (exec .teardownBucketsDone s) fun t => (t.jobs[0]).isNone && t.sched.run.isNone) = true := by
  decide +kernel
/-! ### Plans -/

/-- A descriptor with no record, scale 1. -/
def dd (form layout rows cols stride base mask ext : Nat) : List Byte :=
  le [(1, 1), (1, form), (1, layout), (1, 0), (4, rows), (4, cols), (4, stride), (8, base), (8, 0), (8, 0), (8, mask), (4, 0x3F800000), (4, 0),
    (4, 0), (2, 0), (2, ext)]

/-- The control data of the command at the head of the fetch stage have been read, in so many rounds. -/
def controlRead : Nat → State → State
  | 0, s => s
  | n + 1, s =>
    match s.next with
    | none => s
    | some x =>
      controlRead n (s.modJob x.n fun j =>
        { j with ask := { j.ask with ranges := j.ask.ranges ++ (s.controlReads x).filter fun r => !j.ask.ranges.contains r } })

/-- The command stands at the head of the plan of job 0, with records in memory, and what it needs of them has been read. -/
def issued (cmd : List Byte) (l : List (Nat × List Byte)) : State := controlRead 4 (put l (withCmd cmd ready0))

def okAnd {α : Type} (e : Except Half α) (p : α → Bool) : Bool := match e with | .ok a => p a | .error _ => false
def hasCode {α : Type} (e : Except Half α) (c : Half) : Bool := match e with | .ok _ => false | .error d => d == c

/-- A command issues, and more holds of it. -/
def issuing (s : State) (codes : List Nat) (p : Next → Bool) : Bool :=
  match s.nextOf codes with
  | some x => (s.askStep x).isNone && x.job.ask.bad.isEmpty && x.mayIssue && okAnd (s.bodyRead x) (fun _ => true) && (x.job.flight.all fun f => f.ref != x.ref) && !s.writesOpen x.n x.ref
      && s.ext.near.wf && x.job.flight.all (fun f => f.mv.isNone) && p x
  | none => false

/-- Job 0, its flight and what a test says of them. -/
def jobAfter (o : Host.Outcome State Fault Refusal) (p : State → Job → Bool) : Bool :=
  after o fun t => match t.jobs[0] with | some j => p t j | none => false

def reading : State := { withJob job0 ready0 with ext := { ready0.ext with nearPoison := [] } }
theorem witness_plan_read : (reading.ready && job0.nextChunk == some 0 && !job0.endRead && job0.badReached.isNone && reading.fetchOpen job0
    && !reading.reading (.plan 0) && !reading.unitHeld .seqPair reading.leadIx && job0.desc.mayRead false 0x100000 4096
    && (jobAfter (exec (.planReadDone true) reading) fun t j => j.reading == some (0, [])
      && (t.tilePorts.toList.map fun w => (w.reqs.map (·.beats)).sum).sum == 8)
    && (let s := withJob { job0 with reading := some (0, []) } ready0
      (jobAfter (exec (.planReadDone true) s) fun _ j => j.chunks.map (·.number) == [0])
        && after (exec (.planReadDone false) s) fun t => t.log.queue.map (·.code) == [0x0107] && t.mgmt.quiesce.isSome)) = true := by decide +kernel

def unknownCmd : State := issued (le [(2, 0x99)]) []
theorem witness_unknown : ((unknownCmd.next.map fun x => (opOf x.raw, x.mayIssue, x.job.flight.isEmpty, (unknownCmd.askStep x).isNone)) == some (.unknown, true, true, true)
    && !unknownCmd.queueFull && unknownCmd.ext.near.wf) = true := by decide +kernel

/-- A command of each kind that a check refuses, in every byte that no field uses. -/
def refusedAt (op : Nat) (c : Instr) (code : Half) : Bool :=
  let s := issued (le [(2, op), (62, 2 ^ 496 - 1)]) []
  issuing s (issueCodes c) fun x => s.issueError x c == some code && x.ref.body.isNone && !s.queueFull
theorem witness_issue_refused : (refusedAt 0x10 .product 0x0102 && refusedAt 0x20 .move 0x0102 && refusedAt 0x21 .gather 0x0102
    && refusedAt 0x22 .scatterAdd 0x0102 && refusedAt 0x30 .settle 0x0102 && refusedAt 0x40 .reduce 0x0102
    && refusedAt 0x70 .rosterStep 0x0102) = true := by decide +kernel
theorem witness_update_refused :
    let at_ (m : Nat) : State := issued (le [(14, 0x50), (1, m), (1, 1)]) []
    (issuing (at_ 0) [0x50] (fun x => (at_ 0).issueError x (.apply []) == some 0x0102)
      && issuing (at_ 1) [0x50] (fun x => (at_ 1).issueError x (.lazy []) == some 0x0102)
      && issuing (at_ 2) [0x50] (fun x => (at_ 2).issueError x .normsq == some 0x0102)) = true := by decide +kernel

def ending0 : State := issued (le [(2, 0)]) []
theorem witness_end : (issuing ending0 [0x00] (fun x => okAnd (x.check 8 []) (fun _ => true) && !ending0.jobWritesOpen x.n && !ending0.jobHeld x.n && !ending0.bucketsOf x.n)
    && after (exec .endPlan ending0) fun t => t.mgmt.irqStatus == 1) = true := by decide +kernel

def roster0 : Roster where
  ref := ⟨0, none⟩
  base := 0x300000
  workList := 0x400000
  body := 0x380000
  phase := .body
  target := 1
  maxSeqs := 1
  endBeat := 100
  entries := 1
  kvSlots := 1
  curVersion := 1
  prevVersion := 0
  vocab := 64
  logitsDesc := 0
  gmaxDesc := 0xFFFF
  groups := 1
  templates := []
  bindings := []
  listed := [0]
  alt := false
  bodyPos := 0
  bodyDone := false
  poisoned := []
  fellBack := false

/-- A roster step in flight. -/
def inRoster (p : RosterPhase) (l : List (Nat × List Byte)) : State :=
  controlRead 1 (put l (withJob { job0 with flight := [flight0 .rosterStep], fetchPos := 1, roster := some { roster0 with phase := p } } ready0))
theorem witness_body_end : (issuing (inRoster .body []) [0x00] (fun x => x.ref.body.isSome && okAnd (x.check 8 []) (fun _ => true))
    && jobAfter (exec .endPlan (inRoster .body [])) fun _ j => j.roster.map (·.phase) == some .retire) = true := by decide +kernel

def waitCmd (flags : Nat) : State := issued (le [(2, 8), (2, 0), (4, 77), (8, 5), (1, flags)]) []
theorem witness_wait : (issuing (waitCmd 1) [0x08] (fun x => okAnd (x.check 0x11 []) (fun _ => true))
    && (jobAfter (exec .waitBeat (waitCmd 1)) fun _ j => j.flight.map (·.target) == [105])
    && jobAfter (exec .waitBeat (waitCmd 0)) fun _ j => j.flight.map (·.target) == [5]) = true := by decide +kernel
def waits (b : DWord) : State := withFlight [{ flight0 .waitBeat with target := b }]
theorem witness_wait_ends : ((waits 100).reached 100 && !(waits 100).writesOpen 0 ⟨0, none⟩ && ((waits 100).flight 0 ⟨0, none⟩).isSome
    && jobAfter (exec (.waitBeatTarget ⟨0, none⟩) (waits 101)) fun _ j => j.done == 0) = true := by decide +kernel

def markAt (a : Nat) : State := issued (le [(2, 9), (2, 0), (4, 77), (8, a), (8, 0xAB), (1, 1)]) []
theorem witness_mark : (issuing (markAt 0x103000) [0x09] (fun x => okAnd (x.check 0x19 []) (fun _ => true) && x.job.desc.mayWrite false 0x103000 8)
    && after (exec .mark (markAt 0x103000)) fun t => t.ext.near.field 0x103000 8 == 0xAB && t.mgmt.irqStatus == 2) = true := by decide +kernel
theorem witness_mark_outside : issuing (markAt 0xFFFF8) [0x09] (fun x => !x.job.desc.mayWrite false 0xFFFF8 8 && x.ref.body.isNone
    && !(markAt 0xFFFF8).queueFull) = true := by decide +kernel

/-- A REDUCE over ring 0 of four words. -/
def reduceCmd : State :=
  let s := issued (le [(2, 0x40), (2, 0), (4, 77), (8, 0x280000), (8, 0x290000), (4, 1), (4, 0), (8, 0), (2, 0), (1, 0), (1, 1)])
    [(0x280000, le [(4, 0)]), (0x280030, le [(1, 1)]), (0x280040, le [(8, 0x2A0000), (8, 0x2A0000), (4, 4)]),
      (0x290000, le [(4, 5), (4, 9), (8, 100), (4, 1000)])]
  { s with jobs := s.jobs.map fun j => j.map fun j => { j with desc := { j.desc with ringA := true } } }
theorem witness_reduce : (issuing reduceCmd [0x40] (fun x => !reduceCmd.channelFull x && okAnd (reduceCmd.checkReduce x) fun r =>
      r.1 == 0 && r.2.elements == 4 && r.2.limit == 1100 && r.2.members == 1)
    && after (exec .reduce reduceCmd) fun t => (t.channels[(0 : Fin 4)]).staging.map (·.tag) == [9]) = true := by decide +kernel

/-- A PRODUCT of one tile with one tile. -/
def prodBytes : List Byte :=
  le [(2, 0x10), (2, 0), (4, 77), (2, 0), (2, 1), (2, 2), (2, 0xFFFF)] ++ List.replicate 12 0xFF ++ List.replicate 16 0
    ++ le [(4, 0), (4, 0), (2, 1), (2, 0xFFFF), (8, 0)]
def prodMem : List (Nat × List Byte) :=
  [(0x110000, dd 0 0 64 64 0 0x200000 0 0xFFFF), (0x110040, dd 0 0 64 64 0 0x210000 0 0xFFFF), (0x110080, dd 5 0 64 64 0 0x240000 0 0xFFFF)]
def prodCmd : State := issued prodBytes prodMem
theorem witness_product : issuing prodCmd [0x10] (fun x => okAnd (prodCmd.checkProduct x) fun i =>
    i.prod.aSrc != 2 && i.record.isNone && i.prod.items == 1 && i.prod.settled.isEmpty) = true := by decide +kernel

/-! ### Movers, SETTLE -/

def moveBytes (op a b c ctrl cores : Nat) : List Byte := le [(2, op), (2, 0), (4, 77), (2, a), (2, b), (2, c), (2, ctrl), (4, cores)]
def tilesMem : List (Nat × List Byte) :=
  [(0x110000, dd 0 0 64 64 0 0x200000 0 0xFFFF), (0x110040, dd 0 0 64 64 0 0x210000 0 0xFFFF), (0x200041, [5])]
def desc1 (i : Nat) (f : Form) (rows cols base : Nat) : Desc where
  index := i
  form := f
  layout := .tiles
  fallback := .none
  chanStats := false
  far := false
  auxFar := false
  zpMode := 0
  rotate := false
  smooth := false
  isLazy := false
  rows := rows
  cols := cols
  itemStride := 0
  base := base
  auxBase := 0
  scaleRec := 0
  maskRec := 0
  scale := fpOne
  zeroPoint := 0
  rtDeadline := 0
  altIndex := 0
  ext := none
  master := 0
  state := 0
  version := none

def startable (s : State) (x : Next) : Bool :=
  x.job.flight.all (fun f => f.mv.isNone && f.work.isNone) && s.sched.switch.isNone && s.mgmt.quiesce.isNone && !s.cmdOpen x.n x.ref
def seen (j : JobDesc) (l : List InRead) : Bool := l.all fun y => j.mayRead y.far y.addr y.size
/-- The state with a command at work, with records in memory. -/
def workAt (l : List (Nat × List Byte)) (op : Op) (w : Work) : State := put l (withFlight [{ flight0 op with work := some w }])
/-- The command of the running job stands at a piece, with its reads. -/
def atPieceB (s : State) (p : Job → InFlight → Work → Piece → Bool) : Bool :=
  match s.running with
  | some (n, j) => match j.flight with
    | [f] => match f.work with
      | some w => match w.todo with
        | x :: _ => s.functional && s.mgmt.quiesce.isNone && !j.ended && f.mv.isNone && f.ending.isNone && f.faulted.isNone && f.stages.isEmpty
            && f.bad.isEmpty && !s.slotsLost w && w.phase != 0 && !s.cmdOpen n f.ref && (s.pieceReads j w x).isNone && s.memWf && p j f w x
        | [] => false
      | none => false
    | _ => false
  | none => false
/-- A piece runs: nothing of what it writes lies outside the windows, and it ends no sequence. -/
def runsClean (s : State) (j : Job) (f : InFlight) (w : Work) (x : Piece) : Bool := match s.pieceRun j f w x with
  | .done o => o.writes.all (fun y => j.desc.mayWrite y.far y.addr y.bytes.length) && o.stages.flatten.all (fun y => j.desc.mayWrite y.1 y.2.1 y.2.2.length)
      && o.ends.isEmpty && o.retired.isEmpty && o.refused.isEmpty && o.writes.any fun y => y.bytes != []
  | .fault _ _ => false
def inWindow (d : Desc) : Bool := 0x100000 ≤ d.base && d.base + d.span ≤ 0x2100000

def moveCmd (b ctrl : Nat) : State := issued (moveBytes 0x20 0 b 0xFFFF ctrl 1) tilesMem
theorem witness_move : (issuing (moveCmd 1 0) [0x20] (fun x => startable (moveCmd 1 0) x && okAnd ((moveCmd 1 0).checkMove x) fun p => match p.1 with
      | .tiles a b turned inPlace l => !turned && !inPlace && l == [0] && seen x.job.desc (moveReads a (moveGroup a b turned inPlace 0))
      | _ => false)
    && after (exec .move (moveCmd 1 0)) fun t => (t.tilePorts.toList.map fun w => (w.reqs.map (·.beats)).sum).sum == 8 && t.ext == (moveCmd 1 0).ext)
      = true := by decide +kernel
def moving : State :=
  workAt tilesMem .move { workOf (.move (desc1 0 .e4m3 64 64 0x200000) (desc1 1 .e4m3 64 64 0x210000) false false) [.one 0] with phase := 1 }
theorem witness_move_piece : (atPieceB moving (fun j f w x => runsClean moving j f w x && inWindow (desc1 1 .e4m3 64 64 0x210000))
    && (moving.pumpWorks 0).ext.near.read 0x210041 == 5) = true := by decide +kernel
theorem witness_move_noop : issuing (moveCmd 0 0) [0x20] (fun x => okAnd ((moveCmd 0 0).checkMove x) fun p => p.1 == .noop) = true := by decide +kernel
def moveQueue : State := (moveCmd 0xFFFF 0x44).modCore 0 fun k => { k with hampers := k.hampers.set 0 [(moveCmd 0 0).handleOf 0 5] }
theorem witness_move_queue : issuing moveQueue [0x20] (fun x => startable moveQueue x && okAnd (moveQueue.checkMove x) fun p => match p.1, p.1 with
      | .queue mv, .queue _ => moveQueue.inOrder x.n x.job x.ref && mv.todo == [(0, [0])] && mv.dst.isNone && (match mv.src with
          | some d => seen x.job.desc [d.tileRead 0] && ((moveQueue.cores[(0 : Fin 32)]).findCopy (d.tileSrc 0 0 mv.turned)).isNone
              && moveQueue.depthAllows x.n x.job [d.tileSrc 0 0 mv.turned] 0
          | none => false)
          && (moveQueue.cores[(0 : Fin 32)]).hampers[mv.cls] == [moveQueue.handleOf 0 5] && ((moveQueue.cores[(0 : Fin 32)]).slots[(5 : Fin 64)]).hold == 0
      | _, _ => false) = true := by decide +kernel
/-- The tile of a MOVE into a queue has come to slot 5. -/
def queuing : State :=
  let mv : Mover := { src := some (desc1 0 .e4m3 64 64 0x200000), dst := none, turned := false, queue := 8, cls := 0, idx := none
                      todo := [(0, [0])], taken := [(0, 5)] }
  withFlight [{ flight0 .move with mv := some mv }]
theorem witness_move_handle : (queuing.running.isSome && queuing.functional && !queuing.cmdOpen 0 ref0 && queuing.ext.near.wf
    && match queuing.running with
      | some (_, j) => j.flight.map (fun f => (f.mv.map (queuing.entryWhole ·), f.ending, f.stages.length)) == [(some true, none, 0)]
      | none => false) = true := by decide +kernel

def gatherMem : List (Nat × List Byte) :=
  [(0x110000, dd 5 1 128 64 512 0x230000 0 0xFFFF), (0x110040, dd 5 0 64 64 0 0x240000 0 0xFFFF), (0x110080, dd 6 0 3 1 0 0x220000 0 0xFFFF),
    (0x220000, le [(4, 2), (4, 0xFFFFFFFF), (4, 127)])]
/-- Every core has two free slots of the system class. -/
def tables (s : State) : State :=
  { s with cores := Vector.ofFn fun c => { s.cores[c] with hampers := (s.cores[c]).hampers.set 3 [s.handleOf c 62, s.handleOf c 63] } }
def tablesFree (s : State) (x : Next) : Bool :=
  !(s.participants x).isEmpty && (s.participants x).all fun c => 2 ≤ ((s.cores[c]).hampers[(3 : Fin 16)]).length
def gatherCmd : State := tables (issued (moveBytes 0x21 0 1 2 0 0) gatherMem)
theorem witness_gather : issuing gatherCmd [0x21] (fun x => startable gatherCmd x && tablesFree gatherCmd x && okAnd (gatherCmd.checkGather x) fun p =>
      p.1.dst.isSome && p.1.idx == [2, -1, 127] && gatherReads p.1.src p.1.idx 0 != [] && seen x.job.desc (gatherReads p.1.src p.1.idx 0)) = true := by
  decide +kernel
def tableRows : Desc := { desc1 0 .fp32 128 64 0x230000 with layout := .rows, itemStride := 512 }
def gathering : State :=
  workAt gatherMem .gather { workOf (.gather tableRows (desc1 1 .fp32 64 64 0x240000) [2, -1, 127]) [.one 0] with phase := 1, cores := [0], slots := [] }
theorem witness_gather_piece : atPieceB gathering (fun j f w x => runsClean gathering j f w x && inWindow (desc1 1 .fp32 64 64 0x240000)
    && (desc1 1 .fp32 64 64 0x240000).across == 1 && (desc1 1 .fp32 64 64 0x240000).down == 1) = true := by decide +kernel
def scatterCmd : State := tables (issued (moveBytes 0x22 1 0 2 0 0) gatherMem)
theorem witness_scatter : issuing scatterCmd [0x22] (fun x => startable scatterCmd x && tablesFree scatterCmd x && okAnd (scatterCmd.checkScatter x) fun p =>
      distinctRows p.1.dst p.1.idx == [2, 127] && seen x.job.desc (scatterReads x.job.desc p.1.src p.1.dst p.1.idx 2)) = true := by decide +kernel
def scattering : State :=
  workAt ((0x240000, leBytes 4 0x3F800000) :: gatherMem) .scatterAdd
    { workOf (.scatter (desc1 1 .fp32 64 64 0x240000) tableRows [2, -1, 2]) [.one 2] with phase := 1, cores := [0] }
theorem witness_scatter_piece : (atPieceB scattering (fun j f w x => runsClean scattering j f w x && inWindow tableRows && !tableRows.isLazy)
    && (scattering.pumpWorks 0).ext.near.field 0x230400 4 == 0x3F800000) = true := by decide +kernel

def settleMem : List (Nat × List Byte) := [(0x110000, dd 7 0 2 4 0 0x250000 0 0xFFFF), (0x110040, dd 5 0 2 4 0 0x240000 0 0xFFFF)]
def settleCmd : State := issued (le [(2, 0x30), (2, 0), (4, 77), (2, 0), (2, 1), (2, 0xFFFF), (2, 0xFFFF), (8, 0), (1, 0)]) settleMem
theorem witness_settle : issuing settleCmd [0x30] (fun x => startable settleCmd x && okAnd (settleCmd.checkSettle x) fun p =>
      p.record.isNone && p.dst.tileCount == 1 && seen x.job.desc (p.reads 0)) = true := by decide +kernel
/-- A destination with a scale record at 0x710000, whose first step takes the scale at 0x48. -/
def settleScale : State :=
  put [(0x710048, leBytes 4 0x3F800000), (0x710074, [1])]
    (issued (le [(2, 0x30), (2, 0), (4, 77), (2, 0), (2, 1), (2, 0xFFFF), (2, 0xFFFF), (8, 0xA), (1, 0)])
      [(0x110000, dd 7 0 64 64 0 0x250000 0 0xFFFF),
        (0x110040, le [(1, 1), (1, 0), (1, 0), (1, 0), (4, 64), (4, 64), (4, 0), (8, 0x240000), (8, 0), (8, 0x710000), (8, 0), (4, 0x3F800000), (4, 0),
          (4, 0), (2, 0), (2, 0xFFFF)])])
theorem witness_settle_record : issuing settleScale [0x30] (fun x => startable settleScale x && okAnd (settleScale.checkSettle x) fun p =>
      match p.record with | some b => b != [] && x.job.desc.mayWrite false p.scale.record b.length | none => false) = true := by decide +kernel
def settlePlan : SettlePlan where
  src := desc1 0 .wide 2 4 0x250000
  dst := desc1 1 .fp32 2 4 0x240000
  sides := []
  chain := []
  scale := Scale.unit .fp32
  record := none
  clamped := false
  aligned := true
  clear := true
  below := 0
def settling : State := workAt settleMem .settle { settlePlan.work with phase := 1 }
theorem witness_settle_piece : atPieceB settling (fun j _ _ _ => inWindow settlePlan.src && inWindow settlePlan.dst
    && settlePlan.dst.tileCount == 1 && settling.ext.nearPoison.isEmpty && settling.ext.farPoison.isEmpty && !settling.queueFull
    && j.desc.mayWrite false 0x250000 32768) = true := by decide +kernel
/-- A settled row is poisoned. -/
def settleBad : State := { settling with ext := { settling.ext with nearPoison := [0x1280] } }
theorem witness_settle_poison : atPieceB settleBad (fun _ _ _ _ => (settleBad.settleElem settlePlan 0 0).bad) = true := by decide +kernel

/-! ### Updates, masks, roster -/

/-- A group record with beta 0, eps 1 and a curve of one point. -/
def groupMem (flags : Nat) : List (Nat × List Byte) :=
  [(0x600000, le [(4, flags), (4, 0), (4, 0), (4, 0x3F800000), (4, 0), (4, 0), (4, 0x3F800000), (1, 1)]), (0x640000, le [(4, 0), (4, 0x3F800000)])]
def updBytes (mode norm bitmap : Nat) : List Byte :=
  le [(2, 0x50), (2, 0), (4, 77), (2, 0), (2, 1), (2, 0), (1, mode), (1, 0), (8, 0x500000), (8, norm), (8, 0x600000), (8, 0x680000), (8, bitmap)]
/-- A table of one row of `cols` parameters, its gradient, its extension, the divisor and the two scales of the state block. -/
def tableMem (cols div : Nat) : List (Nat × List Byte) :=
  [(0x110000, dd 0 1 1 cols 512 0x200000 0 2), (0x110040, dd 5 1 1 cols 1024 0x210000 0 0xFFFF),
    (0x110080, le [(8, 2), (8, 0), (8, 0), (8, 0x700000), (8, 0x710000), (8, 0)]), (0x500000, leBytes 8 div),
    (0x710000, le [(4, 0), (4, 0), (4, 0x3F800000), (4, 0x3F800000)])]
def applyCmd (flags div : Nat) (norm : Nat) (l : List (Nat × List Byte)) : State := issued (updBytes 0 norm 0) (tableMem 64 div ++ groupMem flags ++ l)
def updIssue (isLazy : Bool) (s : State) (p : Next → UpdIssue → Bool) : Bool :=
  s.memWf && issuing s [0x50] fun x => (opOf x.raw == if isLazy then .lazy else .apply) && okAnd (s.checkUpdate isLazy x) fun y => p x y.2

theorem witness_apply_frozen : updIssue false (applyCmd 1 1 0 []) (fun x i => match i with
    | .frozen g => x.job.desc.mayWrite false 0x600000 g.length | _ => false) = true := by decide +kernel
theorem witness_apply_noop : updIssue false (applyCmd 0 0 0 []) (fun _ i => i == .noop 0x0503 none) = true := by decide +kernel
/-- A norm record whose sum is not finite. -/
def badNorm : List (Nat × List Byte) := [(0x580000, le [(8, 0x7F800000), (4, 1), (4, 0), (4, 0x3F800000)])]
theorem witness_apply_norm : updIssue false (applyCmd 0 1 0x580000 badNorm) (fun x i => match i with
    | .noop c (some b) => c == 0x0506 && x.job.desc.mayWrite false 0x580000 b.length | _ => false) = true := by decide +kernel
/-- The run of an UPDATE that a check gives. -/
def runOf (e : Except Half (UpdFields × UpdIssue)) : List UpdRun := match e with | .ok (_, .run u _ _ _ _) => [u] | _ => []
def runIn (isLazy : Bool) (s : State) : List UpdRun := match s.nextOf [0x50] with | some x => runOf (s.checkUpdate isLazy x) | none => []
theorem witness_apply : (updIssue false (applyCmd 0 1 0 []) (fun x i => match i with
      | .run u norm record _ _ => startable (applyCmd 0 1 0 []) x && u.work.todo == [.blocks [0]]
          && (u.issueWrites norm record).all fun w => x.job.desc.mayWrite w.1 w.2.1 w.2.2.length
      | _ => false)
    && jobAfter (exec (.apply []) (applyCmd 0 1 0 [])) fun t j => j.flight.map (fun f => f.work.map (·.phase)) == [some 0]
      && t.ext.near.field 0x600000 4 == 0) = true := by decide +kernel
/-- The reads of a piece of an UPDATE have come. -/
def updating (isLazy : Bool) (s : State) (x : Piece) (k : Nat) : State := match runIn isLazy s with
  | [u] => { s with jobs := s.jobs.set 0 (some { job0 with
      flight := [{ flight0 (if isLazy then .lazy else .apply) with work := some { u.work with todo := [x], phase := k } }], fetchPos := 1 }) }
  | _ => s
def updateAt : State := updating false (applyCmd 0 1 0 []) (.blocks [0]) 3
theorem witness_update_block : atPieceB updateAt (fun j f w x => (match w.plan with
    | .update u _ => !u.w.smooth && !u.w.rotate && (match updateAt.runBlock u 0 with
        | some (.ok o) => !o.nonfinite && o.params.length == 64 && o.header.isSome
        | _ => false)
    | _ => false) && runsClean updateAt j f w x) = true := by decide +kernel
def lazyCmd : State := issued (updBytes 1 0 0x5A0000) (tableMem 256 1 ++ groupMem 0 ++ [(0x5A0000, [1])])
theorem witness_lazy : (updIssue true lazyCmd (fun x i => match i with
      | .run u norm record _ _ => startable lazyCmd x && u.work.todo == [.bitmap] && lazyCmd.touchedWords u == [(0, [0])]
          && (u.issueWrites norm record).all fun w => x.job.desc.mayWrite w.1 w.2.1 w.2.2.length
      | _ => false)
    && (let s := updating true lazyCmd (.word 0) 1
      atPieceB s (fun j f w x => runsClean s j f w x && j.desc.mayWrite false 0x5A0000 8) && (s.pumpWorks 0).ext.near.field 0x5A0000 8 == 0)) = true := by
  decide +kernel

def normCmd (div : Nat) : State := issued (updBytes 2 0x580000 0) (tableMem 64 div ++ [(0x580008, le [(4, 1), (4, 0), (4, 0x3F800000)]),
  (0x210004, leBytes 4 0x40000000)])
theorem witness_normsq :
    let p (d : Nat) (q : Next → NormRun → Bool) : Bool := (normCmd d).memWf && issuing (normCmd d) [0x50] fun x =>
      opOf x.raw == .normsq && okAnd ((normCmd d).checkNorm x) (q x)
    (p 0 (fun _ r => r.divisor == 0) && p 2 fun x r => r.divisor != 0 && startable (normCmd 2) x && r.work.todo == [.one 0]
      && ((normCmd 2).firstReads x.job r.work (.one 0)).2 != [] && seen x.job.desc ((normCmd 2).firstReads x.job r.work (.one 0)).2) = true := by
  decide +kernel
def norming : State :=
  let s := normCmd 2
  let run : List NormRun := match s.nextOf [0x50] with | some x => (match s.checkNorm x with | .ok r => [r] | .error _ => []) | none => []
  match run with
  | [r] => { s with jobs := s.jobs.set 0 (some { job0 with
      flight := [{ flight0 .normsq with work := some { r.work with plan := .norm r (accBits (accOf 0)), todo := [] } }], fetchPos := 1 }) }
  | _ => s
theorem witness_norm_ends : (norming.running.isSome && norming.ready && !norming.cmdOpen 0 ref0 && norming.memWf && job0.desc.mayWrite false 0x580000 12
    && (norming.pumpWorks 0).ext.near.field 0x580008 4 == 1 && ((norming.pumpWorks 0).flight 0 ref0).map (·.ending) == some (some 1)) = true := by decide +kernel

/-- A mask record with version 3, and its planes at 0x400000 on. -/
def maskMem (st sv : Nat) : List (Nat × List Byte) :=
  [(0x110000, dd 0 2 64 128 0 0x800000 0x300000 0xFFFF), (0x300000, le [(4, 3), (4, 0), (4, st), (4, sv)]),
    (0x300020, ((List.range 14).map fun i => leBytes 8 (0x400000 + 0x200000 * i)).flatten)]
def maskCmd (op st sv : Nat) (fields : List Byte) : State := issued (le [(2, op), (2, 0), (4, 77), (2, 0)] ++ fields) (maskMem st sv)
def maskOk (s : State) (op used : Nat) (holes : List (Nat × Nat)) (p : Next → MaskRun → Bool) : Bool :=
  issuing s [op] fun x => okAnd (s.checkMask x used holes) fun m => p x m

theorem witness_mask_places : maskOk (maskCmd 0x63 0 0 [7]) 0x63 0xB [] (fun x m => disjoint m.places
    && (m.places.all fun y => 0x100000 ≤ y.1 && y.1 + y.2 ≤ 0x2100000) && x.job.desc.mayWrite false m.d.maskRec 512) = true := by decide +kernel
theorem witness_mask_memory : ((maskCmd 0x63 0 0 [7]).memWf && (maskCmd 0x63 0 0 [7]).ext.nearPoison.isEmpty) = true := by decide +kernel
def maskReady (s : State) (x : Next) (l : List InRead) : Bool := startable s x && seen x.job.desc l && x.job.desc.mayWrite false 0x300000 512
def maskRun0 (st sv : Nat) : MaskRun :=
  { d := { desc1 0 .e4m3 128 128 0x400000 with layout := .sparse48, maskRec := 0x300000 }
    rec_ := (maskCmd 0x63 st sv [7]).near 0x300000 512, step := 1 }
theorem witness_score : issuing (maskCmd 0x63 0 0 [7]) [0x63] (fun x => okAnd ((maskCmd 0x63 0 0 [7]).checkScore x) fun m =>
    m.2 == 7 && m.1.d.tileCount == 1 && maskReady (maskCmd 0x63 0 0 [7]) x (m.1.scoreReads m.2 0)) = true := by decide +kernel
theorem witness_prune : issuing (maskCmd 0x60 0 0 [1, 2, 127, 0]) [0x60] (fun x => okAnd ((maskCmd 0x60 0 0 [1, 2, 127, 0]).checkPrune x) fun m =>
    m.2.1 == 1 && 0 < m.1.d.tileCount && maskReady (maskCmd 0x60 0 0 [1, 2, 127, 0]) x (m.1.pruneReads m.2.1 0)) = true := by decide +kernel
theorem witness_regrow : issuing (maskCmd 0x61 1 3 [0, 0, 0, 0]) [0x61] (fun x => okAnd ((maskCmd 0x61 1 3 [0, 0, 0, 0]).checkRegrow x) fun m =>
    0 < m.1.d.tileCount && maskReady (maskCmd 0x61 1 3 [0, 0, 0, 0]) x (m.1.regrowReads m.2.1 0)) = true := by decide +kernel
/-- A tile of each mask command, with its reads. -/
def masking (p : MaskRun → WorkPlan) (op : Op) : State := workAt (maskMem 1 3) op { workOf (p (maskRun0 1 3)) [.one 1] with phase := 1 }
theorem witness_mask_pieces :
    let ok (s : State) : Bool := atPieceB s fun _ _ _ _ => disjoint (maskRun0 1 3).places && (maskRun0 1 3).d.tileCount == 2
    (ok (masking (fun m => .score m 7) .score) && ok (masking (fun m => .prune m 1 2 0 ⟨0, 0⟩) .prune)
      && ok (masking (fun m => .regrow m 0 0 ⟨0, 0, 0, 0, 0⟩) .regrow)) = true := by decide +kernel
theorem witness_mask_ends :
    let s (p : WorkPlan) (op : Op) : State := workAt (maskMem 1 3) op (workOf p [])
    let t := (s (.prune (maskRun0 1 3) 0 2 0 ⟨7, 3⟩) .prune).pumpWorks 0
    let u := (s (.regrow (maskRun0 1 3) 0 0 ⟨1, 2, 3, 4, 99⟩) .regrow).pumpWorks 0
    (t.ext.near.field 0x300090 4 == 7 && t.ext.near.field 0x300094 4 == 3 && (t.flight 0 ref0).map (·.stages.length) == some 1
      && u.ext.near.field 0x300018 8 == 99 && (u.flight 0 ref0).map (·.stages.length) == some 1) = true := by decide +kernel
theorem witness_commit : (maskOk (maskCmd 0x62 2 3 []) 0x62 0xA [] (fun _ m => m.shadowState == 2 && w32 m.rec_ 0xC == m.version)
    && after (exec .commit (maskCmd 0x62 2 3 [])) fun t => t.ext.near.field 0x300000 4 == 4 && t.ext.near.field 0x300004 4 == 1) = true := by
  decide +kernel
theorem witness_commit_old : (maskOk (maskCmd 0x62 2 2 []) 0x62 0xA [] (fun _ m => m.shadowState == 2 && w32 m.rec_ 0xC != m.version)) = true := by
  decide +kernel

/-- A roster of one entry that is READY, a table of logits, and the entry. -/
def rosterMem (st : Nat) : List (Nat × List Byte) :=
  [(0x110000, dd 5 0 64 64 0 0x240000 0 0xFFFF),
    (0x300000, le [(2, 1), (2, 1), (2, 1), (2, 0), (4, 1), (4, 0), (4, 0), (8, 0), (4, 64), (2, 0), (2, 0xFFFF), (2, 1), (10, 0)]
      ++ ((List.range 4).map fun _ => le [(12, 0), (4, 1)]).flatten ++ (List.replicate 32 (leBytes 4 0xFFFF)).flatten),
    (0x301000, [BitVec.ofNat 8 st]),
    (0x311000, le [(8, 1), (2, 0), (2, 0), (4, 1), (4, 4), (4, 0), (4, 64), (4, 200), (4, 1), (4, 0), (8, 0), (8, 0x5C0000), (2, 1)])]
def rosterCmd : State := issued (le [(2, 0x70), (2, 0), (4, 77), (8, 0x300000), (8, 0x400000), (8, 0x380000), (2, 1), (2, 1)]) (rosterMem 2)
theorem witness_roster : issuing rosterCmd [0x70] (fun x => okAnd (rosterCmd.checkRoster x) fun ro => ro.target == 1) = true := by decide +kernel
/-- The reads of the build have come, which has listed `l`. -/
def buildAt (st : Nat) (expired : Bool) (todo : List Piece) (x : Option (List Nat × Bool)) : State :=
  let s := put (rosterMem st) ready0
  withJob { job0 with fetchPos := 1, roster := some { roster0 with phase := .fillWait }
                      flight := [{ flight0 .rosterStep with work := some { workOf (.build expired x) todo with phase := 2 * boolNat !todo.isEmpty } }] } s
theorem witness_fill_wait :
    let s := inRoster .fillWait (rosterMem 2)
    ((s.rosterIn .fillWait).isSome && s.reached roster0.endBeat && !s.cmdOpen 0 ref0
      && seen job0.desc [nearRead (roster0.base + 0x1000) (8 * roster0.entries), nearRead roster0.base 512, nearRead roster0.workList 32]
      && after (exec .fillWaitExpiry s) fun t => (t.flight 0 ref0).map (fun f => f.work.map (·.phase)) == some (some 1)) = true := by decide +kernel
theorem witness_build :
    let ro : Roster := { roster0 with phase := .fillWait }
    let ok (s : State) : Bool := atPieceB s fun j _ _ _ => !s.buildPoison ro && (s.planBuild ro).listed.map (·.i) == [0] && s.log.held.isEmpty
      && (ro.entryWrites (s.planBuild ro)).all (fun w => j.desc.mayWrite w.1 w.2.1 w.2.2.length)
      && (s.workListWrites ro 1 false 3 [(0, 0, 4)]).all (fun w => j.desc.mayWrite w.1 w.2.1 w.2.2.length) && j.desc.mayWrite false (ro.base + 0x10) 12
    (ok (buildAt 2 false [.one 1] none) && ok (buildAt 3 true [.one 1] none)
      && (((buildAt 3 true [.one 1] none).pumpWorks 0).log.queue.map (·.code)) == [0x0126]) = true := by decide +kernel
theorem witness_build_done :
    let t (l : List Nat) : State := (buildAt 2 false [] (some (l, false))).pumpWorks 0
    (((t [0]).jobs[0].bind fun j => j.roster.map fun ro => (ro.phase, ro.listed)) == some (.body, [0])
      && ((t []).flight 0 ref0).isNone) = true := by decide +kernel
def retiring : State := put [(0x240010, leBytes 4 0x40000000)] (inRoster .retire (rosterMem 3))
theorem witness_retire : ((retiring.rosterIn .retire).isSome && !retiring.cmdOpen 0 ref0 && (okAnd (retiring.retireDescs job0.desc roster0) fun _ => true)
    && seen job0.desc [nearRead (roster0.entryAddr 0) 64, nearRead (roster0.wordAddr 0) 8, nearRead (roster0.base + 0x10) 4]
    && jobAfter (exec .rosterRetire retiring) fun _ j => j.flight.map (fun f => f.work.map (·.phase)) == [some 1]) = true := by decide +kernel
/-- The reads of the one entry have come. -/
def retireAt : State :=
  put [(0x240010, leBytes 4 0x40000000)] (let s := inRoster .retire (rosterMem 3)
    { s with jobs := s.jobs.map fun j => j.map fun j => { j with
      flight := [{ flight0 .rosterStep with work := some { workOf (.retire (desc1 0 .fp32 64 64 0x240000) none) [.one 0] with phase := 4 } }] } })
theorem witness_retire_piece : (atPieceB retireAt (fun j _ w _ => match w.plan, j.roster with
      | .retire l g, some ro => retireAt.retireEntry ro j.desc l g 0 == .token 4 && tokenAddr (retireAt.entryBytes ro 0) == 0x5C0010
          && j.desc.mayWrite false 0x5C0010 8 && (retireAt.retireWord ro 0 4).all fun y => j.desc.mayWrite false y.2.1 y.2.2.length
      | _, _ => false)
    && (retireAt.pumpWorks 0).ext.near.field 0x5C0010 4 == 4) = true := by decide +kernel

/-! ### Cores -/

/-- A PRODUCT of one token with K columns, by 64 outputs on one facet. -/
def prod0 (k : Nat) : Product where
  kind := .forward
  mode := .mac
  dual := false
  shape := .solo
  depth := 32
  splitK := 0
  repro := false
  compact := false
  comp := false
  cand := false
  candStride := 0
  settleForm := .fp32
  prologue := .none
  proK := 0
  pin := 0
  aSrc := 0
  aQueue := 0
  nOuter := false
  walk := 0
  l2Log := 0
  batch := 1
  chain := []
  descA := desc1 0 .e4m3 1 k 0x200000
  descW := desc1 1 .e4m3 k 64 0x210000
  descY := desc1 2 .fp32 1 64 0x240000
  descPro := none
  descSat := none
  sides := []
  bounds := []
  scaleA := Scale.unit .e4m3
  scaleW := Scale.unit .e4m3
  scaleY := Scale.unit .fp32
  sideScales := []
  sAB := fpOne
  tokenBlock := 64
  bindings := []
  items := 2
  counter := 0
  returned := []
  settled := []
  groupCores := []
  stats := Stats.zero
  chanMax := []
  deadline := []
  zeroed := []
  alts := []
  wrote := false
  below := 0
  handles := []
  brought := []

def working (p : Product) : State := withFlight [{ flight0 .product with prod := some p }]
/-- The running job with a PRODUCT that works on. -/
def works (s : State) (q : Job → InFlight → Product → Bool) : Bool :=
  match s.running, s.liveProduct 0 ref0 with
  | some (n, j), some (f, p) => n == 0 && !j.ended && s.mayWork f && s.ready && s.mgmt.quiesce.isNone && j.flight.all (fun f => f.mv.isNone) && q j f p
  | _, _ => false

theorem witness_item : (works (working (prod0 64)) (fun _ _ p => (working (prod0 64)).canForm 3 p.accum p.shape p.depth
      && (working (prod0 64)).roomFor 3 ref0 p && !(working (prod0 64)).unitHeld .core 3 && (p.take 3).map (·.1) == some 0)
    && jobAfter (exec (.itemTake 3 ref0) (working (prod0 64))) fun t j => (t.cores[(3 : Fin 32)]).tasks.map (·.item) == [0]
      && (j.flight.head?.bind (·.prod)).map (·.counter) == some 1) = true := by decide +kernel
theorem witness_item_returned :
    let s := working { prod0 64 with returned := [1] }
    jobAfter (exec (.itemTake 3 ref0) s) (fun t j => (t.cores[(3 : Fin 32)]).tasks.map (·.item) == [1]
      && (j.flight.head?.bind (·.prod)).map (·.returned) == some []) = true := by decide +kernel
def splitting : State := working { prod0 64 with shape := .split2, items := 10 }
theorem witness_item_split : (works splitting (fun _ _ p => splitting.canForm 3 p.accum p.shape p.depth && splitting.roomFor 3 ref0 p
      && (p.take 3).map (·.1) == some 0)
    && after (exec (.itemTake 3 ref0) splitting) fun t => (t.cores[(3 : Fin 32)]).tasks.map (·.item) == List.range 8) = true := by decide +kernel

/-- The free queue of operand slots of core 3 holds slot 5. -/
def withFree (s : State) : State := s.modCore 3 fun k => { k with hampers := k.hampers.set 0 [s.handleOf 3 5] }
def fetching : State := withFree (working (prod0 64))
theorem witness_prefetch : (works fetching (fun j _ p =>
      let x := fetching.fetchSrc j p .streamed p.descA 0
      p.roleDesc .streamed == some p.descA && !fetching.unitHeld .seqPair fetching.leadIx && fetching.inOrder 0 j ref0 && !fetching.notFetched ref0 p .streamed [0] [3]
        && ((fetching.cores[(3 : Fin 32)]).hampers[(4 : Fin 16)]).length < 64 && 0 < p.batch * p.unitCount .streamed p.descA && x.size ≤ 65536
        && j.desc.mayRead x.far x.addr x.size && fetching.unreadOn 0 j 3 + 1 ≤ fetching.depthOf 3
        && ((fetching.cores[(3 : Fin 32)]).findCopy x).isNone)
    && after (exec (.prefetchIssue ref0 .streamed [0] 8) fetching) fun t => (t.cores[(3 : Fin 32)]).hampers[(0 : Fin 16)].isEmpty
      && ((t.cores[(3 : Fin 32)]).slots[(5 : Fin 64)]).tiles.map (·.addr) == [0x200000]
      && ((t.tilePorts.toList.map fun w => (w.reqs.map (·.beats)).sum)).sum == 8) = true := by decide +kernel

def arriving (p : Product) (owners : List CmdRef) : State :=
  let s := (working p).modCore 3 fun k => { k with slots := vmod k.slots 5 fun sl => { sl with owners := owners } }
  { s with transit := [{ core := 3, queue := 8, handle := s.handleOf 3 5 }] }
theorem witness_handle :
    let s := arriving (prod0 64) []
    (works s (fun _ _ _ => (s.queueReader 0 3 8).isNone && (s.handleOwner 0 3 8 (s.handleOf 3 5)).isNone)
      && (after (exec (.hamperHandleArrive 3 8 ⟨false, []⟩) s) fun t => t.transit.isEmpty && (t.cores[(3 : Fin 32)]).hampers[(8 : Fin 16)] == [s.handleOf 3 5])
      && after (exec (.hamperHandleArrive 3 8 ⟨true, []⟩) s) fun t => (t.cores[(3 : Fin 32)]).counters.ctrlParity == 1) = true := by decide +kernel
theorem witness_handle_read :
    let s := arriving { prod0 64 with aSrc := 2, aQueue := 8 } []
    works s (fun _ _ _ => (s.queueReader 0 3 8).isSome) = true := by decide +kernel
theorem witness_handle_owned :
    let s := arriving (prod0 64) [ref0]
    works s (fun _ f _ => s.handleOwner 0 3 8 (s.handleOf 3 5) == some ref0 && f.ending.isNone && f.faulted.isNone) = true := by decide +kernel

/-- Activations 1 and 2 by weights 4 and 5. -/
theorem witness_column : columnSum .mac 0 0 [⟨1, true, false⟩, ⟨2, true, false⟩] [some 4, some 5] (0, 0) =
    (0 + BitVec.ofInt 80 (List.zipWith (fun (a : Act) v => carrierInt a.c 0 * carrierInt v 0) [⟨1, true, false⟩, ⟨2, true, false⟩] [4, 5]).sum,
      (List.zipWith (fun (a : Act) v => cellTag .mac a.c v) [⟨1, true, false⟩, ⟨2, true, false⟩] [4, 5]).foldl tagJoin 0) := by decide +kernel

/-- The check column forms the same sum of two columns of two cells, one of them without a weight: of 512 and -512 by 516 and 520, and by 524. -/
theorem witness_check : let acts : List Act := [⟨5120, true, false⟩, ⟨13312, true, false⟩]
    let p : Product := prod0 64
    p.checkTerms (p.checkCells 0 0 2 [[some 5121, some 5122], [none, some 5123]]) 0 0 acts = 512 * 516 - 512 * 520 - 512 * 524 := by decide +kernel

/-- Core 3 holds item 0 with its tiles in slots 5 and 6: activations 1.0, weights 1.0 in the first 32 rows. -/
def task0 (g : List (Fin 4)) : Task := Task.fresh ref0 0 0 g []
def loaded (k : Nat) (t : Task) : State :=
  let p := prod0 k
  let s := working p
  s.modCore 3 fun c => { c with
    tasks := [t]
    slots := vmod (vmod c.slots 5 fun sl => { sl with tiles := [copyOf (s.fetchSrc job0 p .streamed p.descA 0) 0 0 true none] }) 6 fun sl =>
      { sl with tiles := [copyOf (s.fetchSrc job0 p .stationary p.descW 0) 0 0 true none] } }
/-- The next pass of core 3 may start. -/
def passStarts (s : State) (q : Task → PassPlan → Bool) : Bool := works s fun j _ _ => s.dutyInForce != 0 && !s.unitHeld .core 3
  && match s.pickPass 0 j 3 with
    | some (f, p, u) => (match s.passesOf j f p 3 u, s.nextPlan j f 3 p u with
        | some l, some x => !s.patternsBad j 3 f p u x && !s.carryHeld 3 p u l && u.item == 0 && x.ks != [] && q u x
        | _, _ => false)
    | none => false
theorem witness_pass_ready : passStarts (loaded 64 (task0 [0])) (fun u x => u.pass.isNone && x.last) = true := by decide +kernel

def row0 : ResultRow := { token := 0, col := 0, sums := List.replicate 64 7, tags := List.replicate 64 0, poisoned := false, checks := [] }
def inPass (k number : Nat) : State :=
  loaded k { task0 [0] with passes := some ((prod0 k).plansWith [0] (fun _ _ => false) 1 0), nextPass := number, carrySlots := [7]
                            pass := some { number := number, rows := [row0], replays := 0, unfed := [] } }
/-- The tiles of the second pass are there too, while the first awaits its verdict. -/
def behind : State :=
  let p := prod0 128
  (inPass 128 0).modCore 3 fun c => { c with
    slots := vmod (vmod c.slots 8 fun sl => { sl with tiles := [copyOf ((working p).fetchSrc job0 p .streamed p.descA 1) 0 0 true none] }) 9 fun sl =>
      { sl with tiles := [copyOf ((working p).fetchSrc job0 p .stationary p.descW 1) 0 0 true none] } }
theorem witness_pass_behind : passStarts behind (fun u x => u.pass.isSome && x.last) = true := by decide +kernel
theorem witness_verdict_carries : (works (inPass 128 0) (fun j f p => p.otherHalf 0 == none && !p.accum && f.faulted.isNone && j.flight.length == 1)
    && (((inPass 128 0).cores[(3 : Fin 32)]).sb.wf)
    && after (exec (.passVerdict 3 ref0 0 []) (inPass 128 0)) fun t => (t.cores[(3 : Fin 32)]).tasks.map (fun v => (v.nextPass, v.pass.isNone)) == [(1, true)]
      && ((t.cores[(3 : Fin 32)]).sb.field (65536 * 7) 10) == 7) = true := by decide +kernel
/-- The last pass of item 0 settles it: the drain puts the value of each column into the destination. -/
theorem witness_verdict_settles : (works (inPass 64 0) (fun j _ p => p.otherHalf 0 == none
      && p.settled.isEmpty && p.items == 2 && !row0.poisoned && j.desc.mayWrite false 0x240000 256)
    && jobAfter (exec (.passVerdict 3 ref0 0 []) (inPass 64 0)) fun t j => (t.cores[(3 : Fin 32)]).tasks.isEmpty
      && (j.flight.head?.bind (·.prod)).map (·.settled) == some [0]) = true := by decide +kernel
/-- Both column fields of a band await their verdicts in SPLIT4, and their rows together disagree with the check column. -/
def banded : State :=
  let p : Product := { prod0 128 with shape := .split4 }
  let mk (i : Nat) (x y : BitVec 86) : Task := { Task.fresh ref0 i i [0] [] with
    passes := some (p.plansWith [0] (fun _ _ => false) 1 i), carrySlots := [BitVec.toFin (7 : BitVec 6)]
    pass := some { number := 0, rows := [{ row0 with checks := [⟨0, x, y⟩] }], replays := 0, unfed := [] } }
  (working p).modCore 3 fun k => { k with tasks := [mk 0 5 9, mk 1 4 1] }
theorem witness_band : (works banded (fun _ _ p => !p.accum && match (banded.cores[(3 : Fin 32)]).tasks with
      | u :: _ => (match banded.bandFellow 3 p u, u.pass with
          | some (w, o), some q => w.item == 1 && w.unfed.isEmpty && o.unfed.isEmpty && (p.itemRows 1).1 == 0
              && bandHits (p.itemRows 0).1 q.rows (p.itemRows 1).1 o.rows == [(0, 0x0301, [0])]
          | _, _ => false)
      | [] => false)
    && after (exec (.passVerdict 3 ref0 0 []) banded) fun t => t.log.queue.map (·.code) == [0x0301]
      && (t.cores[(3 : Fin 32)]).tasks.map (fun v => (v.pass.isNone, v.replay)) == [(true, [0]), (true, [0])]) = true := by decide +kernel
/-- The last pass of an item of a destination with smoothing, whose exponents the drain reads first. -/
def drainWaits : State :=
  let e : ExtDesc := { alpha8 := 8, reqSh := 0, reqM := 0, rowsumBase := 0, smoothBase := 0x2C0000, masterBase := 0, stateBase := 0, chanstatBase := 0 }
  let p : Product := { prod0 64 with descY := { desc1 2 .e4m3 1 64 0x240000 with smooth := true, ext := some e } }
  { inPass 64 0 with jobs := (working p).jobs }
theorem witness_drain_reads : jobAfter (exec (.passVerdict 3 ref0 0 []) drainWaits) (fun t _ =>
    (t.cores[(3 : Fin 32)]).tasks.map (fun v => (v.done, v.asked)) == [(true, [(false, 0x2C0000, 64)])]
      && (t.tilePorts.toList.map fun w => (w.reqs.map (·.beats)).sum).sum == 1) = true := by decide +kernel
theorem witness_verdict_replays : after (exec (.passVerdict 3 ref0 0 [.suppressed 0 [0]]) (inPass 128 0)) (fun t =>
    (t.cores[(3 : Fin 32)]).tasks.map (fun v => (v.nextPass, v.replay, v.replays)) == [(0, [0], 0)] && t.log.queue.map (·.code) == [0x0301]
      && (t.facets[(12 : Fin 128)]).counters.checkMismatch == 1) = true := by decide +kernel

theorem witness_partial :
    let p : Product := { prod0 64 with kind := .weightGrad, splitK := 2, items := 2, settleForm := .fp32 }
    let mk (i : Nat) : Task := { task0 [0] with item := i, done := i == 1, accBase := 0, accRows := 64 }
    let s := ((working p).modCore 3 fun k => { k with tasks := [mk 1] }).modCore 4 fun k => { k with tasks := [mk 0] }
    works s (fun _ _ p => match s.findTask ref0 1, s.findTask ref0 0 with
      | some (a, u), some (b, v) => p.parts == 2 && p.receiver 1 == 0 && a != b && (s.openRange b p v).isSome && p.rangeFull u
          && (match s.openRange b p v with | some w => p.accepts 1 w && !w.done | none => false)
      | _, _ => false) = true := by decide +kernel
def late0 (p : Product) : State := (working p).modCore 3 fun k => { k with tasks := [task0 [0]] }
theorem witness_deadline :
    let p : Product := { prod0 64 with deadline := [(.streamed, 100)] }
    (works (late0 p) (fun j f p => (late0 p).lateOn j f p 3 .streamed && (late0 p).reached 100 && p.roleDesc .streamed == some p.descA)
      && after (exec (.rtDeadlineMiss 3 ref0) (late0 p)) fun t => t.log.queue.map (·.code) == [0x0802]
        && (t.cores[(3 : Fin 32)]).counters.deadlineMiss == 1) = true := by decide +kernel
theorem witness_deadline_fallback :
    let d (fb : Fallback) : Product := { prod0 64 with deadline := [(.streamed, 100)], descA := { desc1 0 .e4m3 1 64 0x200000 with fallback := fb }
                                                       alts := [(.streamed, desc1 3 .e4m3 1 64 0x280000)] }
    ((jobAfter (exec (.rtDeadlineMiss 3 ref0) (late0 (d .skip))) fun t j => t.log.queue.map (·.code) == [0x0801]
        && (j.flight.head?.bind (·.prod)).map (·.zeroed) == some [.streamed])
      && jobAfter (exec (.rtDeadlineMiss 3 ref0) (late0 (d .alt))) fun t j => t.log.queue.map (·.code) == [0x0801]
        && (j.flight.head?.bind (·.prod)).map (·.descA.base) == some 0x280000) = true := by decide +kernel
/-! ### Tile ports -/

def read0 (o : Origin) (beats : Nat) : Req where
  tag := some 3
  write := false
  addr := 0x200000
  beats := beats
  got := 0
  far := false
  ro := false
  window := 0
  cls := 0
  drain := false
  settle := false
  origin := o
  timedOut := false
  start := 0
  data := []
  bad := []
  old := []
  fills := []

def onPort (l : List Req) (s : State) : State := { s with tilePorts := s.tilePorts.set 5 { TilePort.reset with reqs := l } }
def beat0 : List Byte := 9 :: List.replicate 511 0

theorem witness_read_data :
    let s := onPort [read0 (.cmd 0 ref0) 2] ready0
    (s.functional && s.memWf && beat0.length == 512 && !s.unitHeld .tilePort 5
      && (after (exec (.tpReadData 5 3 beat0 (beatParity beat0) false false) s) fun t => (t.tilePorts[(5 : Fin 32)]).rdBeats == 1
        && (t.tilePorts[(5 : Fin 32)]).reqs.map (·.got) == [1] && t.ext.near.read 0x200000 == 9)
      && after (exec (.tpReadData 5 3 beat0 (beatParity beat0) true false) s) fun t => (t.tilePorts[(5 : Fin 32)]).rdPoison == 1
        && t.ext.near.isEmpty && t.ext.nearPoison == [0x1000]) = true := by decide +kernel
/-- The last beat that a command waits for, and of a piece of the cut image. -/
theorem witness_last_beat :
    let s := onPort [{ read0 (.cmd 0 ref0) 1 with start := 0x1000 }] (withFlight [flight0 .move])
    let q : Req := { read0 .boot 16 with addr := 0x10000, got := 15, start := 0x80 }
    let b := onPort [q] { boot4 with mgmt := { boot4.mgmt with boot := { boot4.mgmt.boot with unread := 0x2200 } } }
    ((after (exec (.tpReadData 5 3 beat0 (beatParity beat0) true false) s) fun t => (t.flight 0 ref0).map (·.bad) == some [(false, 0x1000)])
      && after (exec (.tpReadData 5 3 beat0 (beatParity beat0) false true) b) fun t => t.mgmt.boot.unread == 0x200
        && (t.tilePorts[(0 : Fin 32)]).reqs.map (fun x => (x.addr, x.beats)) == [(0x12000, 16)]) = true := by decide +kernel
theorem witness_read_fill :
    let f : Fill := { core := 3, slot := 5, offset := 0 }
    let s := onPort [{ read0 (.cmd 0 ref0) 8 with fills := [f] }] ((working (prod0 64)).modCore 3 fun k => { k with
      slots := vmod k.slots 5 fun sl => { sl with tiles := [{ copyOf (fetching.fetchSrc job0 (prod0 64) .streamed (prod0 64).descA 0) 0 0 true none with
        missing := beatsOf 0x200000 4096 }] } })
    after (exec (.tpReadData 5 3 beat0 (beatParity beat0) false false) s) (fun t =>
      ((t.cores[(3 : Fin 32)]).slots[(5 : Fin 64)]).tiles.map (·.missing) == [rangeFrom 0x1001 7]) = true := by decide +kernel
theorem witness_stray_response : ((after (exec (.tpReadData 5 3 beat0 0 false true) ready0) fun t => (t.tilePorts[(5 : Fin 32)]).protos == 1
      && t.log.queue.map (·.code) == [0x020E])
    && (after (exec (.tpWriteResponse 5 3 false true) (onPort [read0 .block 1] ready0)) fun t => t.log.queue.map (·.code) == [0x020E])
    && after (exec (.tpWriteResponse 5 3 false false) (onPort [{ read0 .block 1 with write := true }] ready0)) fun t =>
      t.log.queue.map (·.code) == [0x020E]) = true := by decide +kernel
theorem witness_write_response :
    let s := onPort [{ read0 .block 1 with write := true }] ready0
    ((after (exec (.tpWriteResponse 5 3 false true) s) fun t => (t.tilePorts[(5 : Fin 32)]).reqs.isEmpty && t.log.queue.isEmpty)
      && after (exec (.tpWriteResponse 5 3 true true) s) fun t => (t.tilePorts[(5 : Fin 32)]).werrs == 1 && t.log.queue.map (·.code) == [0x020B]) = true := by
  decide +kernel
theorem witness_write_ends :
    let s := onPort [{ read0 (.cmd 0 ref0) 1 with write := true }] (withFlight [{ flight0 .mark with ending := some 1 }])
    (s.functional && s.mgmt.quiesce.isNone && ((s.flight 0 ref0).map fun f => (f.ending, f.stages.isEmpty, f.faulted.isNone)) == some (some 1, true, true)) = true := by
  decide +kernel
/-- The response of a chunk of a save, after which the next one goes out. -/
theorem witness_save_chunk :
    let s := onPort [{ read0 .save 8 with write := true }] (savingAt .saving 640)
    (s.memWf && (s.switching .saving).isSome && after (exec (.tpWriteResponse 5 3 false true) s) fun t => (t.sched.switch.map (·.cursor)) == some 641) = true := by
  decide +kernel
theorem witness_withdraw :
    let q := read0 (.cmd 0 ref0) 1
    let v : Req := { q with write := true, tag := some 4 }
    after (exec (.tpReadWithdraw 5 3) (onPort [q, v] ready0)) (fun t => (t.tilePorts[(5 : Fin 32)]).reqs == [v, q]) = true := by decide +kernel
theorem witness_request_timeout :
    let q := read0 (.cmd 0 ref0) 1
    ((after (exec (.tpRequestTimeout 5 3) (onPort [q] ready0)) fun t => (t.tilePorts[(5 : Fin 32)]).timeouts == 1 && t.log.queue.map (·.code) == [0x020C]
        && t.mgmt.irqStatus == 1 <<< 18)
      && after (exec (.tpRequestTimeout 5 3) (onPort [{ q with timedOut := true }] ready0)) fun t => t.log.queue.isEmpty) = true := by decide +kernel

/-! ### Rings -/

/-- Two members in each ring; every port is up. -/
def ringed : State := { ready2 with ringPorts := Vector.replicate 4 { RingPort.reset with state := .up, everUp := true } }
def flitOf (ty : Nat) (seq : Half) (pl : List Byte) : List Byte := RingPort.reset.flit ty false seq pl
/-- A flit on the sixteen lanes of a port: word w on lane w mod 16. -/
def onLanes (b : List Byte) (late : Bool) : RxFlit := { words := flitWords b, late := late }
def badFlit (late : Bool) : RxFlit := onLanes (List.replicate 256 1) late
def onRing (p : Fin 4) (f : RingPort → RingPort) (s : State) : State := s.modRing p f

theorem witness_bad_flit : (ringed.portUp? 0 && rxBytes (badFlit false) == List.replicate 256 1 && !flitOk (List.replicate 256 1)
    && (after (exec (.ringDataFlit 0 (badFlit false) 0) ringed) fun t => (t.ringPorts[(0 : Fin 4)]).crcs == 1 && (t.ringPorts[(0 : Fin 4)]).naks == 1
      && (after (exec (.ringNak 0 (badFlit false)) t) fun u => (u.ringPorts[(0 : Fin 4)]).crcs == 2 && (u.ringPorts[(0 : Fin 4)]).naks == 1)
      && after (exec (.ringIdle 0 (badFlit true)) t) fun u => (u.ringPorts[(0 : Fin 4)]).crcs == 2 && (u.ringPorts[(0 : Fin 4)]).naks == 2)) = true := by
  decide +kernel
/-- A flit with a good CRC, whatever stands in it, is checked once here. -/
theorem witness_good_flit : (flitOk (flitOf 1 0 [1]) && flitOk (flitOf 1 5 [1]) && flitOk (flitOf 2 0 []) && flitOk (flitOf 0 0 [1])) = true := by
  decide +kernel
theorem witness_data_flit : ((ringed.ringPorts[(0 : Fin 4)]).toSend.isEmpty && ringed.sched.switch.isNone
    && (after (exec (.ringDataFlit 0 (onLanes (flitOf 1 5 [1]) false) 0) ringed) fun t => (t.ringPorts[(0 : Fin 4)]).naks == 1 && (t.ringPorts[(0 : Fin 4)]).nakSent)) = true := by
  decide +kernel

def reduce0 (members elements : Nat) : Reduce where
  job := 0
  ref := ref0
  bucket := 0x280000
  step := 5
  tag := 9
  weight := 1
  deadline := some 100
  limit := 100
  seq := 0
  wide := false
  thin := 1
  extents := [(0x2A0000, 0x2B0000, elements)]
  elements := elements
  members := members
  rank := 0
  mask := 1

def active0 (members elements : Nat) : Active where
  red := reduce0 members elements
  relay := false
  wasReady := false
  decision := none
  lap := 0
  incoming := 0
  ownLaps := 0
  readSeg := none
  readTo := 0
  badBeats := []
  ownAt := 0
  ownSum := 0
  ownBad := false
  header := none
  flits := 0
  sumIn := 0
  sumOut := 0
  ownPoison := false
  poison := false
  finals := none
  disagree := false
  short := false
  passed := false

def header0 : SegHeader where
  tag := 9
  step := 5
  seq := 0
  lap := 0
  segment := 1
  phase := 0
  empty := false
  m := 2
  elements := 2
  weightSum := 1
  bitmap := 3
  deadline := 100
  limit := 200

/-- A bucket runs on channel 0, with a command in flight. -/
def bucketing (a : Active) (s : State) : State :=
  let j : Job := { job0 with flight := [flight0 .reduce], fetchPos := 1 }
  let s1 : State := { s with jobs := s.jobs.set 0 (some j), sched := { s.sched with run := some 0 } }
  s1.modChan 0 fun c => { c with active := some a, tag := 9, step := 5 }

/-- The port that channel 0 receives on is the previous one, and the own values are 1.0 and 2.0. -/
def adding : State :=
  put [(0x2A0000, le [(4, 0x3F800000), (4, 0x40000000)])]
    (bucketing { active0 4 4 with decision := some true, ownLaps := 1, readSeg := some 1, readTo := 1, header := some { header0 with m := 4, segment := 0, elements := 1 } } ringed)
theorem witness_partial_flit : (adding.chanRecv 0 == 1 && adding.chanSend 0 == 0 && adding.chanOn 1 false == some 0
    && match (adding.channels[(0 : Fin 4)]).active with
      | some a => (match a.header with
          | some h => a.flits < h.dataFlits && a.incoming + 2 < a.red.members && a.lap < a.ownLaps && a.readSeg == some 1 && Nat.min 60 h.elements ≤ a.readTo
          | none => false)
      | none => false) = true := by decide +kernel

def sending (n : Nat) : State := onRing 0 (fun r => { r with unacked := [(0, ⟨[1], false, 0, none⟩)], noProgress := n, txSeq := 1 }) ringed
theorem witness_replay : ((after (exec (.ringReplayTimeout 0) (sending 14)) fun t => (t.ringPorts[(0 : Fin 4)]).noProgress == 15
      && (t.ringPorts[(0 : Fin 4)]).replays == 1)
    && (after (exec (.ringNak 0 (onLanes (flitOf 2 0 []) false)) (sending 14)) fun t => (t.ringPorts[(0 : Fin 4)]).noProgress == 15)
    && after (exec (.ringReplayTimeout 0) (sending 15)) fun t => (t.ringPorts[(0 : Fin 4)]).state == .down && t.log.queue.map (·.code) == [0x040C]) = true := by
  decide +kernel
theorem witness_idle : after (exec (.ringIdle 0 (onLanes (flitOf 0 0 [2]) false)) ringed) (fun t => (t.ringPorts[(0 : Fin 4)]).heard == [(2, 100)]) = true := by decide +kernel

/-- Port 0 trains towards the member at position 1, which sends its identity. -/
def training (n : Nat) : State := onRing 0 (fun r => { r with state := .training, trainGood := n, phyUp := true }) ringed
def identity0 (uid : Nat) : List Byte := le [(4, 9), (4, uid), (1, 0), (1, 1), (1, 2), (1, 1)]
theorem witness_train : (flitOk (flitOf 3 0 (identity0 8)) && (training 15).linkReady
    && (after (exec (.ringPhyUp 0 ⟨32, (List.range 16).map fun l => [alignWord l], false, false, false, false⟩) (training 3)) fun t =>
      (t.ringPorts[(0 : Fin 4)]).trainGood == 0 && (t.ringPorts[(0 : Fin 4)]).phyUp && (t.ringPorts[(0 : Fin 4)]).sent.length == 1)
    && (after (exec (.ringTrain 0 (badFlit false) true) (training 3)) fun t => (t.ringPorts[(0 : Fin 4)]).trainGood == 0 && (t.ringPorts[(0 : Fin 4)]).crcs == 1)
    && (after (exec (.ringTrain 0 (onLanes (flitOf 3 0 (identity0 8)) false) true) (training 14)) fun t => (t.ringPorts[(0 : Fin 4)]).trainGood == 15)
    && (after (exec (.ringTrain 0 (onLanes (flitOf 3 0 (identity0 8)) false) false) (training 15)) fun t => (t.ringPorts[(0 : Fin 4)]).trainGood == 16)
    && (after (exec (.ringTrain 0 (onLanes (flitOf 3 0 (identity0 8)) false) true) (training 15)) fun t => (t.ringPorts[(0 : Fin 4)]).state == .up
      && (t.ringPorts[(0 : Fin 4)]).peerUid == 8 && t.log.queue.map (·.code) == [0x040D])
    && after (exec (.ringTrain 0 (onLanes (flitOf 3 0 (identity0 9)) false) true) (training 15)) fun t => (t.ringPorts[(0 : Fin 4)]).trainFails == 1
      && t.log.queue.map (·.code) == [0x040E]) = true := by decide +kernel
theorem witness_link : ((after (exec (.ringPortDown 0) ringed) fun t => (t.ringPorts[(0 : Fin 4)]).state == .down && t.mgmt.pins.svcDegraded
      && t.log.queue.map (·.code) == [0x040C])
    && (after (exec (.ringTrainRetry 0) (onRing 0 (fun r => { r with state := .down }) ringed)) fun t => (t.ringPorts[(0 : Fin 4)]).state == .training)
    && after (exec (.idleInsert 0) (onRing 1 (fun r => { r with state := .down }) ringed)) fun t => (t.ringPorts[(0 : Fin 4)]).downMask == 1) = true := by
  decide +kernel
/-- No attempt while the beat stands still or within 64 beats of the last one; no TRAIN flit counts before the lanes are level. -/
theorem witness_link_waits :
    let d (n : DWord) : State := onRing 0 (fun r => { r with state := .down, lastTry := n }) ringed
    let z : State := { d 0 with mgmt := { (d 0).mgmt with beat := { (d 0).mgmt.beat with stalled := true } } }
    ((d 36).linkReady && ((d 36).portRole 0).isSome && (d 36).reached 100 && after (exec (.ringTrainRetry 0) (d 36)) (fun t => (t.ringPorts[(0 : Fin 4)]).lastTry == 100)
      && ([d 37, z].all fun s => after (exec (.ringTrainRetry 0) s) fun t => t.ringPorts == s.ringPorts)
      && (let s := onRing 0 (fun r => { r with phyUp := false }) (training 3)
        after (exec (.ringTrain 0 (onLanes (flitOf 3 0 (identity0 8)) false) true) s) fun t => t.ringPorts == s.ringPorts)
      && (after (exec (.ringPhyUp 0 ⟨32, [], false, false, false, false⟩) (training 3)) fun t => !(t.ringPorts[(0 : Fin 4)]).phyUp)
      && laneDelays ((List.range 16).map fun l => if l == 3 then [0, alignWord l] else [alignWord l])
        == some ((List.range 16).map fun l => if l == 3 then 0 else 64)
      && after (exec (.ringPortDown 0) ringed) fun t => (t.ringPorts[(0 : Fin 4)]).laneLock != 0xFFFF) = true := by decide +kernel
/-- The same port with a UCIe adapter. -/
def ucie (s : State) : State := { s with mgmt := { s.mgmt with pins := { s.mgmt.pins with rpMode := 1 } } }
theorem witness_ucie :
    ((after (exec (.ringPhyUp 0 ⟨32, [], true, true, true, true⟩) (ucie (training 3))) fun t => (t.ringPorts[(0 : Fin 4)]).phyUp
        && (t.ringPorts[(0 : Fin 4)]).ucieRate == 32)
      && (after (exec (.ringPhyUp 0 ⟨32, [], true, true, false, true⟩) (ucie (training 3))) fun t => !(t.ringPorts[(0 : Fin 4)]).phyUp)
      && (after (exec (.ringTrainRetry 0) (ucie (onRing 0 (fun r => { r with state := .down }) ringed))) fun t => (t.ringPorts[(0 : Fin 4)]).lpStateReq == 1)
      && after (exec (.ringPortDown 0) (ucie (onRing 0 (fun r => { r with phyUp := true }) ringed))) fun t => !(t.ringPorts[(0 : Fin 4)]).phyUp) = true := by decide +kernel
theorem witness_mask_expiry : after (exec (.downMaskExpiry 0) (onRing 0 (fun r => { r with heard := [(4, 92), (2, 91)] }) ringed)) (fun t =>
    (t.ringPorts[(0 : Fin 4)]).heard == [(4, 92)]) = true := by decide +kernel

theorem witness_bucket_start : (ringed.engineRuns 0 && (ringed.channels[(0 : Fin 4)]).remembered.isEmpty && !(ringed.channels[(0 : Fin 4)]).lost 5 9 0) = true := by
  decide +kernel
theorem witness_bucket_starts : after (exec (.bucketStart 0) (ringed.modChan 0 fun c => { c with staging := [reduce0 2 4] })) (fun t =>
    (t.channels[(0 : Fin 4)]).staging.isEmpty && ((t.channels[(0 : Fin 4)]).active.map (·.red)) == some (reduce0 2 4)) = true := by decide +kernel
/-- One member: the result is the own contribution. -/
def alone : State := put [(0x2A0000, le [(4, 0x3F800000), (4, 0x40000000)])] (bucketing { active0 1 2 with wasReady := true } ready0)
theorem witness_contribution_alone : (alone.memWf && alone.contribReady (reduce0 1 2)
    && (after (exec (.contributionDecision 0) alone) fun t => (t.channels[(0 : Fin 4)]).active.map (fun a => (a.decision, a.readSeg, a.readTo)) == some (some true, some 0, 2)
      && (t.tilePorts.toList.map fun w => (w.reqs.map (·.beats)).sum).sum == 1)
    && (let t := (bucketing { active0 1 2 with decision := some true, readSeg := some 0, readTo := 2 } alone).pump 0
      t.ext.near.field 0x2B0000 8 == 0x400000003F800000 && ((t.channels[(0 : Fin 4)]).active.map (·.passed)) == some true)) = true := by decide +kernel
theorem witness_contribution : ((bucketing (active0 2 4) ringed).contribReady (reduce0 2 4)
    && (let t := (bucketing { active0 2 4 with decision := some true, readSeg := some 0, readTo := 4 } ringed).pump 0
      (t.ringPorts[(0 : Fin 4)]).queued.length == 3 && (t.channels[(0 : Fin 4)]).active.map (·.ownLaps) == some 1)) = true := by decide +kernel
/-- Of the own segment, one run has been read; the port is down. -/
theorem witness_contribution_run :
    let a : Active := { active0 2 4 with red := { reduce0 2 4 with extents := [(0x2A0000, 0x2B0000, 1)] }, decision := some true, readSeg := some 0, readTo := 4 }
    let s := onRing 0 (fun r => { r with state := .down }) (bucketing a ringed)
    ((a.red.seg 0 0).2 == 4 && (s.ownValues a.red [] 0 4).1.length == 1
      && (((s.pump 0).channels[(0 : Fin 4)]).active.map (·.ownAt)) == some 1 && (((s.pump 0).ringPorts[(0 : Fin 4)]).queued.length) == 2) = true := by decide +kernel
/-- A contribution that an UPDATE before the REDUCE has still to write. -/
def lateJob : Job := { job0 with flight := [{ flight0 .settle with writes := [(0x2A0000, 64)] }, { flight0 .reduce with ref := ⟨1, none⟩ }], fetchPos := 2 }
def late1 : State :=
  let s := ringed
  let s1 : State := { s with jobs := s.jobs.set 0 (some lateJob), sched := { s.sched with run := some 0 } }
  s1.modChan 0 fun c => { c with active := some { active0 2 4 with red := { reduce0 2 4 with ref := ⟨1, none⟩ } }, tag := 9, step := 5 }
theorem witness_contribution_late :
    let r : Reduce := { reduce0 2 4 with ref := ⟨1, none⟩ }
    (!late1.contribReady r && late1.contribLate r
      && (after (exec (.contributionDecision 0) late1) fun t => t.log.queue.map (·.code) == [0x0820] && t.ext.near.field 0x28002C 4 == 1)
      && after (exec (.reduceDeadline 0) late1) fun t => t.log.queue.map (·.code) == [0x0820] && (t.ringPorts[(0 : Fin 4)]).queued.length == 2) = true := by
  decide +kernel
/-- Flits of a bucket that no REDUCE names wait in channel 0. -/
def held0 : State := ringed.modChan 0 fun c => { c with rx := [⟨header0.bytes, false, 0, none⟩] }
theorem witness_relay : (held0.claims 0 (readHeader header0.bytes) && held0.reached 100 && held0.linkReady && !held0.unitHeld .channel 0
    && !(held0.channels[(0 : Fin 4)]).lost 5 9 0 && (held0.channels[(0 : Fin 4)]).lastSeq == 0xFFFF && (held0.ringPorts[held0.chanSend 0]).toSend.isEmpty && held0.chanOn (held0.chanSend 0) true == some 0
    && after (exec (.unissuedBucketDeadline 0) held0) fun t => (t.channels[(0 : Fin 4)]).rx.isEmpty
      && ((t.channels[(0 : Fin 4)]).active.map (·.relay)) == some true) = true := by decide +kernel
def limited (a : Active) : State := bucketing a ringed
theorem witness_limit : ((limited (active0 2 4)).reached 100 && ((limited (active0 2 4)).flight 0 ref0).isSome && (limited (active0 2 4)).memWf
    && after (exec (.bucketLimit 0) (limited (active0 2 4))) fun t => t.log.queue.map (·.code) == [0x0821]
      && (t.channels[(0 : Fin 4)]).lost 5 9 0 && t.ext.near.field 0x280004 4 == 3) = true := by decide +kernel
/-- What the port has still to send of the bucket goes with it. -/
theorem witness_limit_drops :
    let x : Payload := ⟨[1], false, 0, (active0 2 4).bucket⟩
    let s := onRing 0 (fun r => { r with toSend := [x, { x with bucket := none }] }) (limited (active0 2 4))
    (s.chanSend 0 == 0 && after (exec (.bucketLimit 0) s) fun t => ((t.ringPorts[(0 : Fin 4)]).toSend.map (·.bucket)) == [none]) = true := by decide +kernel
theorem witness_bucket_passed :
    let a (b : Bool) : Active := { active0 2 4 with decision := some true, passed := true, poison := b, finals := some (3, 2) }
    ((after (exec (.bucketPassed 0) (limited (a false))) fun t => t.ext.near.field 0x280008 8 == 2
        && t.ext.near.field 0x280010 16 == 3 && (t.flight 0 ref0).map (·.stages) == some [[(false, 0x280000, leBytes 4 5 ++ leBytes 4 1)]] && (t.channels[(0 : Fin 4)]).lastSeq == 0)
      && after (exec (.bucketPassed 0) (limited (a true))) fun t => t.ext.near.field 0x280004 4 == 4) = true := by decide +kernel
theorem witness_segments : ((reduce0 2 61).laps == 1 && (reduce0 2 61).seg 0 1 == (60, 1)) = true := by decide +kernel

/-! ### Reset values and well-formedness -/

theorem test_reset_registers : ((State.reset.readReg 0x00 == some 0x00090102) && (State.reset.readReg 0x104 == some 0x001F0303)
    && (State.reset.readReg 0x8C == some 0x005A4101) && (State.reset.readReg 0x22000C == some 0xFFFFFFFF)) = true := by decide +kernel

theorem test_wf_detections : ([Detection.suppressed 0 [4096], .dual 0 [4096], .accStage 0 32768, .residue 0 512, .drainLane 4096 0, .drainLane 0 128, .slotParity 0 8192].all
    fun d => !d.wf && !(Instr.passIssue 0 [d]).wf && !(Instr.passVerdict 0 ref0 0 [d]).wf && !(Instr.apply [d]).wf && !(Instr.lazy [d]).wf) = true := by
  decide
theorem test_wf_lengths : (!(Instr.keyHashReadDone [] true).wf && !(Instr.tpReadData 0 0 [] 0 false true).wf && !(Instr.ringDataFlit 0 ⟨[], false⟩ 0).wf
    && !(Instr.ringNak 0 ⟨[], false⟩).wf && !(Instr.ringIdle 0 ⟨[], false⟩).wf && !(Instr.ringTrain 0 ⟨[], false⟩ true).wf
    && !(Instr.ringPhyUp 0 ⟨0, [], true, true, true, true⟩).wf && !(Instr.wrapperInstruction (.ijtag [.forceStep 0 60])).wf
    && !(Instr.hamperHandleArrive 0 0 ⟨false, [8192]⟩).wf && !(Instr.thermalSensorUpdate []).wf
    && !(Instr.bootPolishDone [(0, 37)]).wf && !(Instr.splitPartialArrive ref0 0 ⟨32, [], []⟩).wf) = true := by decide
theorem test_wf_image (l : List Byte) (h : 1048576 < l.length) : (Instr.cutImageReadDone l true).wf = false := by
  simp [Instr.wf, h]
theorem test_wf_good : ((Instr.keyHashReadDone (List.replicate 48 0) true).wf && (Instr.passIssue 0 [.suppressed 0 [4095], .slotParity 0 8191]).wf
    && (Instr.thermalSensorUpdate (List.replicate 32 0)).wf) = true := by decide
end Sys2Proof.Tests
end

section
/-! Reads of the register access port (R378, R379, R385), and the statement about VERSION (R2). -/

namespace Sys2Proof.Machine

variable {s : State} {a v : Nat}

/-- A served port is not held: `ra_ready` is not kept at 0 (R353, R383). -/
theorem State.functional_of_raServed (h : s.raServed = true) : s.functional = true := by
  simp only [State.raServed, Bool.and_eq_true] at h
  exact h.1.1

theorem State.raDone_of_functional (h : s.functional = true) (d : Word) :
    s.raDone d false = { s with mgmt := { s.mgmt with ra := { s.mgmt.ra with rdata := d, error := false } } } := by
  simp [State.raDone, h]

/-- Only a _HI register, 4 above its _LO register, takes a latched word (R385). -/
theorem State.readPort_of_not_hi (h : 4 ≤ a → isLoReg (a - 4) = false) : s.readPort a = s.readReg a := by
  have hnone : (s.mgmt.ra.latched.find? fun x => x.1 == a && 4 ≤ a && isLoReg (a - 4)) = none := by
    simp +contextual [h]
  unfold State.readPort
  cases hr : s.readReg a with
  | none => rfl
  | some v => simp only [hnone]

/-- What a read of a register through a served port can do: it answers the register's value without an error, and writes
nothing but the port. -/
theorem State.raRead_of_readPort (hs : s.raServed = true) (hv : s.readPort a = some v) :
    ∃ latched, s.raRead a =
      { s with mgmt := { s.mgmt with ra := { s.mgmt.ra with rdata := BitVec.ofNat 32 v, error := false, latched := latched } } } := by
  simp only [State.raRead, hs, hv, if_true, State.raDone_of_functional (State.functional_of_raServed hs)]
  exact ⟨_, rfl⟩

theorem exec_pairLoRead (addr : BitVec 24) (s : State) : exec (.pairLoRead addr) s = .next (s.raRead addr.toNat) := rfl

/-- Offset 0 of the global block names VERSION in every state (Table 00-1, Table 16-2). -/
@[simp] theorem State.readReg_version : s.readReg 0 = some Config.version.toNat := by
  simp [State.readReg, State.readGlobal]

@[simp] theorem State.readPort_version : s.readPort 0 = some Config.version.toNat := by
  rw [State.readPort_of_not_hi (by simp), State.readReg_version]

/-- Settles O18: VERSION's value reads no field of the state, and no word is latched for offset 0. -/
theorem versionReads : Obligations.VersionReads := by
  intro s hs
  obtain ⟨latched, hread⟩ := State.raRead_of_readPort hs State.readPort_version
  refine ⟨s.raRead 0, exec_pairLoRead 0 s, ?_⟩
  rw [hread]
  exact ⟨rfl, rfl, rfl⟩

end Sys2Proof.Machine
end
